-- ==== Sys2Proof/Word.lean ====
section
/-! DEFINITION. The word types of the block (00_scope.md rule R8). -/

namespace Sys2Proof

/-- Glyph, character code, wire opcode or wire data value: 8 bits (rule R8). -/
abbrev Byte := BitVec 8

/-- A wire frame: 16 bits, opcode above data (rule R87). -/
abbrev WireFrame := BitVec 16

/-- A command word: 32 bits (rule R80). -/
abbrev CommandWord := BitVec 32

/-- A duration in milliseconds: 24 bits (rule R8). -/
abbrev Duration := BitVec 24

end Sys2Proof
end

