-- ==== Sys2Proof/Machine/Bits.lean ====
section
/-! DEFINITION. Bit fields, and the order of bits and frames on the wire (20_memory.md rules R54, R55, 41_serial_bus.md). -/

namespace Sys2Proof.Machine

/-- The wire frame `{op, data}` (rule R87). -/
def mkFrame (op data : Byte) : WireFrame := op ++ data

/-- Bits 15:8 of a frame. -/
def frameOp (f : WireFrame) : Byte := f.extractLsb' 8 8

/-- Bits 7:0 of a frame. -/
def frameData (f : WireFrame) : Byte := f.extractLsb' 0 8

/-- The bits of a frame, bit 0 first. -/
def frameBits (f : WireFrame) : List Bool := (List.range 16).map fun i => f.getLsbD i

/-- The number whose bits, bit 0 first, are listed. -/
def natOfBits : List Bool → Nat
  | [] => 0
  | b :: bs => b.toNat + 2 * natOfBits bs

/-- `SR[16p+15 : 16p]`: the frame the device at chain position `p` holds, in a shift register listed bit 0 first
(rule R138). -/
def frameAt (sr : List Bool) (p : Nat) : WireFrame :=
  BitVec.ofNat 16 (natOfBits ((sr.drop (16 * p)).take 16))

/-- The frame vector of a transaction: `fr` at position `t`, the no-op frame elsewhere (rule R131). -/
def frameVector (n t : Nat) (fr : WireFrame) : List WireFrame :=
  (List.range n).map fun p => if p = t then fr else 0

/-- The bits of a frame vector in the order shifted: highest chain position first (rule R132), bit 15 of a frame
first (rule R133). -/
def shiftOrder (frames : List WireFrame) : List Bool :=
  frames.reverse.flatMap fun f => (frameBits f).reverse

/-- One shift of the chain: the bit enters at bit 0, the old bit `16 * n - 1` is lost (rule R138). -/
def shiftIn (n : Nat) (sr : List Bool) (b : Bool) : List Bool := (b :: sr).take (16 * n)

end Sys2Proof.Machine
end

