-- ==== Sys2Proof/Config.lean ====
section
/-! DEFINITION. What an implementation fixes: the parameters of 00_scope.md rule R7, and the free values. -/

namespace Sys2Proof

/-- The seven physical segments of a digit (00_scope.md rule R11, 30_encoding.md rule R88). -/
inductive Segment where
  | a | b | c | d | e | f | g
  deriving DecidableEq, Repr

/-- The wire opcodes of rule R99, one per opcode class; `OP_NOOP` is fixed at 0x00 and is no parameter. -/
structure WireOps where
  /-- `OP_DIGIT[0]` to `OP_DIGIT[7]`. -/
  digits      : List Byte
  decodeMode  : Byte
  intensity   : Byte
  scanLimit   : Byte
  shutdown    : Byte
  displayTest : Byte
  deriving DecidableEq, Repr

/-- The parameter `FRAME_MS` as plain data: the default of rule R209, or an unknown function of the
same arguments (`Config.frameMs`). -/
inductive FrameMsRule where
  | divEight
  | unknown
  deriving DecidableEq, Repr

/-- The parameters of 00_scope.md rule R7 that the block reads. They are constant from reset onward:
no step writes them. The four half-glyph codes are read by the host's normalizer only and are its arguments. -/
structure Params where
  /-- `N`, the number of chained devices, 1 to 8. -/
  devices           : Nat
  /-- `CAP`, the capacity of the text buffer, 1 to 256. -/
  cap               : Nat
  /-- `GLYPH_ROM` as (code, glyph) pairs, codes rising; a code not listed holds a free value. -/
  glyphRom          : List (Nat × Byte)
  /-- `SEGMAP`: entry `k` is the segment that glyph bit `k` drives. -/
  segmap            : List Segment
  ops               : WireOps
  dataShutdownOn    : Byte
  dataShutdownOff   : Byte
  dataNoDecode      : Byte
  dataTestOff       : Byte
  /-- `LATCH_ACTIVE_LEVEL` (true is the physical level 1). -/
  latchActiveLevel  : Bool
  /-- `CLK_IDLE_LEVEL`. -/
  clkIdleLevel      : Bool
  /-- `WINDOW_MAP`: entry `j` is the digit position of window slot `j`. -/
  windowMap         : List Nat
  /-- `PAD`, the number of padding frames of a scroll. -/
  pad               : Nat
  frameMs           : FrameMsRule
  suspendAfterLast  : Bool
  deriving DecidableEq, Repr

/-- The four reserved half-glyph codes `W_L`, `W_R`, `M_L`, `M_R` (rules R7, R116). -/
structure HalfGlyphs where
  wL : Byte
  wR : Byte
  mL : Byte
  mR : Byte
  deriving DecidableEq, Repr

/-- FREE VALUE. The seven segment bits of a glyph table entry the spec gives no value (rule R117, U1). -/
opaque Config.freeGlyph : BitVec 7 → BitVec 7

/-- FREE VALUE. What register `op` of the device at position `p` holds after its `n`-th power-up (0: before the block's
construction) until something is committed to it: arguments `n`, `p`, `op` (rules R295, R299, U8). -/
opaque Config.powerUpReg : Nat → Nat → Byte → Byte

/-- FREE VALUE. The 16 bits the device at position `p` holds in its shift register after its `n`-th power-up: arguments
`n`, `p` (rule R299, U8). -/
opaque Config.powerUpFrame : Nat → Nat → BitVec 16

/-- FREE VALUE. `FRAME_MS` where it is not the default (rule R209): total duration, text length, frame count. -/
opaque Config.frameMs : Duration → Nat → Nat → Duration

end Sys2Proof
end

