-- ==== Sys2Proof/Machine/Mem.lean ====
section
/-! DEFINITION. A memory as a list of (address, entry) pairs, addresses strictly rising; an unlisted address holds no value. -/

namespace Sys2Proof.Machine

/-- The canonical form: addresses strictly rising. An unlisted address holds no value, so no entry can equal it. -/
abbrev Mem.wf {α : Type} (m : List (Nat × α)) : Prop := (m.map Prod.fst).Pairwise (· < ·)

/-- The entry at address `k`, or none where nothing has been written. -/
def Mem.read {α : Type} (m : List (Nat × α)) (k : Nat) : Option α :=
  match m with
  | [] => none
  | (a, v) :: rest => if a = k then some v else Mem.read rest k

/-- Write entry `k`, keeping the canonical form. -/
def Mem.write {α : Type} (m : List (Nat × α)) (k : Nat) (v : α) : List (Nat × α) :=
  match m with
  | [] => [(k, v)]
  | (a, w) :: rest =>
    if k < a then (k, v) :: (a, w) :: rest
    else if a = k then (k, v) :: rest
    else (a, w) :: Mem.write rest k v

end Sys2Proof.Machine
end

