-- ==== Sys2Proof/Machine/Params.lean ====
section
/-! DEFINITION. Reading the parameters of 00_scope.md rule R7, what makes them admissible, and their defaults. -/

namespace Sys2Proof.Machine

/-- `OP_NOOP`, fixed by the source (rule R7). -/
def opNoop : Byte := 0x00

/-- `OP_DIGIT[i]`. -/
def digitOp (ops : WireOps) (i : Nat) : Byte := ops.digits.getD i 0

/-- Every wire opcode but `OP_NOOP`. -/
def allOps (ops : WireOps) : List Byte :=
  ops.digits ++ [ops.decodeMode, ops.intensity, ops.scanLimit, ops.shutdown, ops.displayTest]

/-- Eight digit opcodes, and all wire opcodes non-zero and pairwise distinct (rule R7). -/
abbrev opsWf (ops : WireOps) : Prop :=
  ops.digits.length = 8 ∧ (allOps ops).Nodup ∧ opNoop ∉ allOps ops

/-- `WINDOW_MAP(j)`. -/
def windowPos (p : Params) (j : Nat) : Nat := p.windowMap.getD j 0

/-- The character codes of the sixteen hexadecimal digits (rule R114). -/
def hexCodes : List Nat :=
  [0x30, 0x31, 0x32, 0x33, 0x34, 0x35, 0x36, 0x37, 0x38, 0x39, 0x41, 0x42, 0x43, 0x44, 0x45, 0x46]

/-- `RomRead(c)` (rule R50): the listed entry, or a free glyph with bit 7 clear (rules R113, R117). -/
def romRead (p : Params) (c : BitVec 7) : Byte :=
  match Mem.read p.glyphRom c.toNat with
  | some g => g
  | none => (0#1) ++ Config.freeGlyph c

/-- What rules R113 to R115 fix about the table: 128 entries with bit 7 clear; the hexadecimal digits listed, pairwise
different and not blank; `K` and `X` as `H`. -/
abbrev romWf (rom : List (Nat × Byte)) : Prop :=
  Mem.wf rom ∧ (∀ e ∈ rom, e.1 < 128 ∧ e.2.getLsbD 7 = false) ∧
  (∀ c ∈ hexCodes, (Mem.read rom c).isSome ∧ Mem.read rom c ≠ some 0x00) ∧
  (hexCodes.map (Mem.read rom)).Nodup ∧
  (Mem.read rom 0x48).isSome ∧
  Mem.read rom 0x4B = Mem.read rom 0x48 ∧ Mem.read rom 0x58 = Mem.read rom 0x48

/-- The ranges of rule R7. -/
abbrev paramsWf (p : Params) : Prop :=
  (1 ≤ p.devices ∧ p.devices ≤ 8) ∧ (1 ≤ p.cap ∧ p.cap ≤ 256) ∧ romWf p.glyphRom ∧
  (p.segmap.length = 7 ∧ p.segmap.Nodup) ∧ opsWf p.ops ∧ p.dataShutdownOn ≠ p.dataShutdownOff ∧
  (p.windowMap.length = 8 ∧ p.windowMap.Nodup ∧ ∀ i ∈ p.windowMap, i < 8)

/-- The default wire opcodes of rule R99. PRESUMED: the MAX7219 register map (G2). -/
def defaultOps : WireOps :=
  { digits := [0x01, 0x02, 0x03, 0x04, 0x05, 0x06, 0x07, 0x08]
    decodeMode := 0x09, intensity := 0x0A, scanLimit := 0x0B, shutdown := 0x0C, displayTest := 0x0F }

/-- The 22 default glyphs of rule R118. PRESUMED: conventional shapes (G7). -/
def defaultRom : List (Nat × Byte) :=
  [(0x20, 0x00), (0x2D, 0x01),
   (0x30, 0x7E), (0x31, 0x30), (0x32, 0x6D), (0x33, 0x79), (0x34, 0x33),
   (0x35, 0x5B), (0x36, 0x5F), (0x37, 0x70), (0x38, 0x7F), (0x39, 0x7B),
   (0x41, 0x77), (0x42, 0x1F), (0x43, 0x4E), (0x44, 0x3D), (0x45, 0x4F), (0x46, 0x47),
   (0x48, 0x37), (0x4B, 0x37), (0x58, 0x37), (0x5F, 0x08)]

/-- The defaults of rule R7 for a chain of `n` devices. -/
def paramsFor (n : Nat) : Params :=
  { devices := n, cap := 32, glyphRom := defaultRom
    segmap := [.g, .f, .e, .d, .c, .b, .a]
    ops := defaultOps
    dataShutdownOn := 0x00, dataShutdownOff := 0x01, dataNoDecode := 0x00, dataTestOff := 0x00
    latchActiveLevel := true, clkIdleLevel := false
    windowMap := [0, 1, 2, 3, 4, 5, 6, 7]
    pad := 8, frameMs := .divEight, suspendAfterLast := true }

/-- The parameters of `State.reset`. DESIGN CHOICE: one device; the spec gives `N` no default. -/
def resetParams : Params := paramsFor 1

/-- `FRAME_MS(dur, L, F)` (rule R209). -/
def frameDuration (p : Params) (dur : Duration) (len frames : Nat) : Duration :=
  match p.frameMs with
  | .divEight => BitVec.ofNat 24 (dur.toNat / 8)
  | .unknown => Config.frameMs dur len frames

/-- The segments a glyph lights, by `SEGMAP` (rule R88); no rule of the block depends on it. -/
def litSegments (p : Params) (glyph : Byte) : List Segment :=
  ((List.range 7).filter fun k => glyph.getLsbD k).filterMap fun k => p.segmap[k]?

end Sys2Proof.Machine
end

