-- ==== Sys2Proof/Syntax.lean ====
section
/-! DEFINITION. The instructions: one constructor per row of spec/opcode_table.json. -/

namespace Sys2Proof

/-- The 13 commands and 3 reserved command opcodes of 30_encoding.md rule R82, and the 14 wire frames of rule R99.
Addresses, positions and ranges are numbers, bounded by their field's width in WellFormed. -/
inductive Instr where
  | devcnt
  | shutdn (d : Nat) (on : Bool)
  | scanlim (d limit : Nat)
  | intens (d level : Nat)
  | clear (d : Nat)
  | setdigit (d pos val : Nat) (dp : Bool)
  | setchar (d pos : Nat) (ch : Byte) (dp : Bool)
  | init (d : Nat)
  | rdshadow (d pos : Nat)
  | txtwr (idx : Nat) (ch : Byte) (dp : Bool)
  | txtlen (len : Nat)
  | frame (d off : Nat)
  | render (d : Nat) (dur : Duration)
  | reserved0
  | reservedE
  | reservedF
  | wNoop
  | wDigit0 (data : Byte)
  | wDigit1 (data : Byte)
  | wDigit2 (data : Byte)
  | wDigit3 (data : Byte)
  | wDigit4 (data : Byte)
  | wDigit5 (data : Byte)
  | wDigit6 (data : Byte)
  | wDigit7 (data : Byte)
  | wDecodemode (data : Byte)
  | wIntensity (data : Byte)
  | wScanlimit (data : Byte)
  | wShutdown (data : Byte)
  | wDisplaytest (data : Byte)
  deriving DecidableEq, Repr

end Sys2Proof
end

