-- ==== Sys2Proof/WellFormed.lean ====
section
/-! DEFINITION. Well-formed instructions: every operand fits its field (30_encoding.md rules R80, R81). -/

namespace Sys2Proof

/-- The operand fits the 4-bit field `ADDR`. -/
def fitsAddr (d : Nat) : Bool := decide (d < 16)

/-- The operand fits an 8-bit field, `A` or `B`. -/
def fitsByte (x : Nat) : Bool := decide (x < 256)

/-- Every operand of the instruction fits the field that carries it. Operands that are bit vectors fit by their type. -/
def Instr.wf : Instr → Bool
  | .devcnt => true
  | .shutdn d _ => fitsAddr d
  | .scanlim d limit => fitsAddr d && fitsByte limit
  | .intens d level => fitsAddr d && fitsByte level
  | .clear d => fitsAddr d
  | .setdigit d pos val _ => fitsAddr d && fitsByte pos && fitsByte val
  | .setchar d pos _ _ => fitsAddr d && fitsByte pos
  | .init d => fitsAddr d
  | .rdshadow d pos => fitsAddr d && fitsByte pos
  | .txtwr idx _ _ => fitsByte idx
  | .txtlen len => fitsByte len
  | .frame d off => fitsAddr d && fitsByte off
  | .render d _ => fitsAddr d
  | .reserved0 => true
  | .reservedE => true
  | .reservedF => true
  | .wNoop => true
  | .wDigit0 _ => true
  | .wDigit1 _ => true
  | .wDigit2 _ => true
  | .wDigit3 _ => true
  | .wDigit4 _ => true
  | .wDigit5 _ => true
  | .wDigit6 _ => true
  | .wDigit7 _ => true
  | .wDecodemode _ => true
  | .wIntensity _ => true
  | .wScanlimit _ => true
  | .wShutdown _ => true
  | .wDisplaytest _ => true

end Sys2Proof
end

