-- ==== Sys2Proof/Decode.lean ====
section
/-! DEFINITION. The decoder, total on every command word and wire frame, and the encoder (30_encoding.md). -/

namespace Sys2Proof
open Machine

/-- What an agent of the machine decodes: a 32-bit command word (the block) or a 16-bit wire frame (a device). -/
inductive Code where
  | command (w : CommandWord)
  | wire (f : WireFrame)
  deriving DecidableEq, Repr

/-- Why a wire frame is no row of the opcode table. No command word is rejected (rule R84). -/
inductive DecodeError where
  /-- The opcode byte is outside the set of rule R99 (U6). -/
  | unknownWireOpcode (op : Byte)
  /-- Opcode 0 with a data byte other than 0: not the no-op frame 0x0000 of rule R87. -/
  | noopWithData (data : Byte)
  deriving DecidableEq, Repr

/-- The field of `len` bits from bit `lo` up of a command word (rule R80). -/
def cmdField (w : CommandWord) (lo len : Nat) : Nat := (w.extractLsb' lo len).toNat

/-- `ADDR` of a command word. -/
def fieldAddr (w : CommandWord) : Nat := cmdField w 24 4

/-- Operand `A` of a command word. -/
def fieldA (w : CommandWord) : Nat := cmdField w 16 8

/-- Operand `B` of a command word. -/
def fieldB (w : CommandWord) : Nat := cmdField w 8 8

/-- The character code in operand `B`. -/
def fieldChar (w : CommandWord) : Byte := w.extractLsb' 8 8

/-- The flag `C[0]`; bits 7:1 of `C` are ignored (rule R83). -/
def fieldFlag (w : CommandWord) : Bool := w.getLsbD 0

/-- The duration `DUR = CMD[23:0]`. -/
def fieldDur (w : CommandWord) : Duration := w.extractLsb' 0 24

/-- The command of a word: `COP = CMD[31:28]` alone selects it (rules R82, R100), unused fields are ignored
(rule R83), the reserved opcodes decode to their own rows (rule R84). -/
def decodeCommand (w : CommandWord) : Instr :=
  match cmdField w 28 4 with
  | 0x0 => .reserved0
  | 0x1 => .devcnt
  | 0x2 => .shutdn (fieldAddr w) (fieldFlag w)
  | 0x3 => .scanlim (fieldAddr w) (fieldB w)
  | 0x4 => .intens (fieldAddr w) (fieldB w)
  | 0x5 => .clear (fieldAddr w)
  | 0x6 => .setdigit (fieldAddr w) (fieldA w) (fieldB w) (fieldFlag w)
  | 0x7 => .setchar (fieldAddr w) (fieldA w) (fieldChar w) (fieldFlag w)
  | 0x8 => .init (fieldAddr w)
  | 0x9 => .rdshadow (fieldAddr w) (fieldA w)
  | 0xA => .txtwr (fieldA w) (fieldChar w) (fieldFlag w)
  | 0xB => .txtlen (fieldA w)
  | 0xC => .frame (fieldAddr w) (fieldA w)
  | 0xD => .render (fieldAddr w) (fieldDur w)
  | 0xE => .reservedE
  | _ => .reservedF

/-- The rows of the wire opcode map, each an opcode and the instruction it stands for (rule R99). -/
def wireRows (ops : WireOps) : List (Byte × (Byte → Instr)) :=
  [(digitOp ops 0, .wDigit0), (digitOp ops 1, .wDigit1), (digitOp ops 2, .wDigit2), (digitOp ops 3, .wDigit3),
   (digitOp ops 4, .wDigit4), (digitOp ops 5, .wDigit5), (digitOp ops 6, .wDigit6), (digitOp ops 7, .wDigit7),
   (ops.decodeMode, .wDecodemode), (ops.intensity, .wIntensity), (ops.scanLimit, .wScanlimit),
   (ops.shutdown, .wShutdown), (ops.displayTest, .wDisplaytest)]

/-- The row of a wire frame under the wire opcodes `ops` (rules R87, R99). -/
def decodeWire (ops : WireOps) (f : WireFrame) : Except DecodeError Instr :=
  if frameOp f = opNoop then
    if frameData f = 0 then .ok .wNoop else .error (.noopWithData (frameData f))
  else
    match (wireRows ops).find? fun row => row.1 == frameOp f with
    | some row => .ok (row.2 (frameData f))
    | none => .error (.unknownWireOpcode (frameOp f))

/-- The decoder of both agents. -/
def decode (ops : WireOps) : Code → Except DecodeError Instr
  | .command w => .ok (decodeCommand w)
  | .wire f => decodeWire ops f

/-- `CMD = COP << 28 | d << 24 | A << 16 | B << 8 | C` (rule R96). -/
def assemble (cop d a b c : Nat) : CommandWord :=
  BitVec.ofNat 32 (cop * 2 ^ 28 + d * 2 ^ 24 + a * 2 ^ 16 + b * 2 ^ 8 + c)

/-- The word or frame of an instruction, unused fields zero (rules R81, R82, R96 and R99). -/
def encode (ops : WireOps) : Instr → Code
  | .reserved0 => .command (assemble 0x0 0 0 0 0)
  | .devcnt => .command (assemble 0x1 0 0 0 0)
  | .shutdn d on => .command (assemble 0x2 d 0 0 on.toNat)
  | .scanlim d limit => .command (assemble 0x3 d 0 limit 0)
  | .intens d level => .command (assemble 0x4 d 0 level 0)
  | .clear d => .command (assemble 0x5 d 0 0 0)
  | .setdigit d pos val dp => .command (assemble 0x6 d pos val dp.toNat)
  | .setchar d pos ch dp => .command (assemble 0x7 d pos ch.toNat dp.toNat)
  | .init d => .command (assemble 0x8 d 0 0 0)
  | .rdshadow d pos => .command (assemble 0x9 d pos 0 0)
  | .txtwr idx ch dp => .command (assemble 0xA 0 idx ch.toNat dp.toNat)
  | .txtlen len => .command (assemble 0xB 0 len 0 0)
  | .frame d off => .command (assemble 0xC d off 0 0)
  | .render d dur =>
    .command (assemble 0xD d (dur.toNat / 2 ^ 16) (dur.toNat / 2 ^ 8 % 2 ^ 8) (dur.toNat % 2 ^ 8))
  | .reservedE => .command (assemble 0xE 0 0 0 0)
  | .reservedF => .command (assemble 0xF 0 0 0 0)
  | .wNoop => .wire (mkFrame opNoop 0)
  | .wDigit0 data => .wire (mkFrame (digitOp ops 0) data)
  | .wDigit1 data => .wire (mkFrame (digitOp ops 1) data)
  | .wDigit2 data => .wire (mkFrame (digitOp ops 2) data)
  | .wDigit3 data => .wire (mkFrame (digitOp ops 3) data)
  | .wDigit4 data => .wire (mkFrame (digitOp ops 4) data)
  | .wDigit5 data => .wire (mkFrame (digitOp ops 5) data)
  | .wDigit6 data => .wire (mkFrame (digitOp ops 6) data)
  | .wDigit7 data => .wire (mkFrame (digitOp ops 7) data)
  | .wDecodemode data => .wire (mkFrame ops.decodeMode data)
  | .wIntensity data => .wire (mkFrame ops.intensity data)
  | .wScanlimit data => .wire (mkFrame ops.scanLimit data)
  | .wShutdown data => .wire (mkFrame ops.shutdown data)
  | .wDisplaytest data => .wire (mkFrame ops.displayTest data)

/-- A row of the opcode table as a number of `nbits` bits: 32 for a command word, 16 for a wire frame, which is read
with the table's own opcode numbers, the defaults of rule R99. -/
def decodeTableWord (nbits w : Nat) : Option Instr :=
  if nbits = 32 then some (decodeCommand (BitVec.ofNat 32 w))
  else if nbits = 16 then
    match decodeWire defaultOps (BitVec.ofNat 16 w) with
    | .ok i => some i
    | .error _ => none
  else none

end Sys2Proof
end

