-- ==== Sys2Proof/Machine/State.lean ====
section
/-! DEFINITION. The state of the machine, its stopping reasons, and the state after reset (10_state.md). -/

namespace Sys2Proof.Machine

/-- The two logical levels of `CLK` (rule R27). -/
inductive ClkLevel where
  | idle
  | pulsed
  deriving DecidableEq, Repr

/-- The two logical levels of `LATCH` (rule R27). -/
inductive LatchLevel where
  | inactive
  | active
  deriving DecidableEq, Repr

/-- A text-buffer slot: character code and decimal-point flag (rule R89). -/
structure Slot where
  ch : Byte
  dp : Bool
  deriving DecidableEq, Repr

/-- The events of the output trace (rule R33). -/
inductive Event where
  | bit (b : Bool)
  | latch
  | waitReq (ms : Duration)
  | resp (v : Byte)
  deriving DecidableEq, Repr

/-- A RENDER in progress: device, index of the next frame, frame count `F`, duration of every wait (rule R206). -/
structure ScrollJob where
  d      : Nat
  k      : Nat
  frames : Nat
  ms     : Duration
  deriving DecidableEq, Repr

/-- The sequencer position between two steps (rule R30): ready for a command, or held in a `Wait` of a RENDER. -/
inductive Seq where
  | idle
  | waiting (job : ScrollJob)
  deriving DecidableEq, Repr

/-- MODEL'S OWN. One move of the environment (rules R38, R273, R293, R296, R297). -/
inductive HostMove where
  /-- Present a command word when the block is ready. -/
  | command (w : CommandWord)
  /-- Acknowledge a wait request. -/
  | ack
  /-- The reset input, between two commands or during a wait. -/
  | reset
  /-- Present a command word; reset arrives after `n` elementary actions of it, wherever that is inside it. -/
  | commandThenReset (w : CommandWord) (n : Nat)
  /-- Acknowledge; reset arrives after `n` elementary actions of the frame that follows. -/
  | ackThenReset (n : Nat)
  /-- Another agent makes a whole transaction with frame `f` for position `p`. -/
  | wire (p : Nat) (f : WireFrame)
  /-- Another agent adds, removes or latches clock pulses inside a transaction. -/
  | strayPulse
  /-- The device at position `p` loses power and powers up again, or resets on its own (rule R299). -/
  | devicePowerUp (p : Nat)
  deriving DecidableEq, Repr

/-- The machine: the block, the chain it drives, and the environment's moves to come. -/
structure State where
  /-- The parameters of rule R7, `N` and the glyph table among them; no step writes them. -/
  par      : Params
  /-- `SHADOW[d][i]` is entry `8 * d + i` (rule R20). -/
  shadow   : List Byte
  /-- `TLEN` (rule R26). -/
  tlen     : Byte
  /-- `TBUF` (rule R26); a slot not listed holds no value. -/
  tbuf     : List (Nat × Slot)
  /-- `SEQ` (rule R30). -/
  seq      : Seq
  /-- The chain position of the device that commits a wire frame (the component `p` of rule R30's tuple). -/
  pos      : Nat
  /-- The pin `DATA` (rule R27). -/
  dataPin  : Bool
  /-- The pin `CLK` (rule R27). -/
  clkPin   : ClkLevel
  /-- The pin `LATCH` (rule R27). -/
  latchPin : LatchLevel
  /-- `WAIT_REQ` (rule R28). -/
  waitReq  : Bool
  /-- `WAIT_MS` (rule R28). -/
  waitMs   : Duration
  /-- `RSP` (rule R29). -/
  rsp      : Byte
  /-- The valid indication of `RSP` (rule R86). -/
  rspValid : Bool
  /-- The output trace since the last reset, newest event first (rule R33). -/
  trace    : List Event
  /-- The output trace before the last reset, newest event first. -/
  earlier  : List Event
  /-- The chain's shift register, bit 0 first (rules R34, R138). -/
  sr       : List Bool
  /-- The committed device registers, `DEV[p][op]` at address `256 * p + op` (rules R34, R139). -/
  dev      : List (Nat × Byte)
  /-- MODEL'S OWN: how often each device has powered up on its own; a device not listed never did. -/
  powerUps : List (Nat × Nat)
  /-- MODEL'S OWN: the moves the environment has still to make. -/
  host     : List HostMove
  deriving DecidableEq, Repr

/-- The faults: none, the set of exception causes is empty (rule R260). -/
inductive Fault where
  deriving DecidableEq, Repr

/-- The refusals: runs that have no meaning. -/
inductive Refusal where
  /-- An instruction without a meaning; no arm of `exec` answers it. Safe. -/
  | notModelled (mnemonic : String)
  /-- Raised by FRAME, RENDER and a RENDER's next frame that read a text slot below `TLEN` no TXTWR has written since
  reset (rule R214). Safe. -/
  | unwrittenTextSlot (k : Nat)
  /-- Raised by the step of a device that latches a wire opcode outside rule R99's set (U6). Safe. -/
  | unknownWireOpcode (op : Byte)
  /-- Raised by the step in which another agent disturbs a transaction (rule R296, U3). Safe. -/
  | disturbedTransaction
  /-- Raised by the step in which the host presents a command while the block is held in a wait (rule R300, U4). Safe. -/
  | commandWhileBusy
  deriving DecidableEq, Repr

/-- The outcome of a step of this machine. -/
abbrev StepOutcome := Host.Outcome State Fault Refusal

/-- The machine after reset with the given parameters (rule R36). `pos`, `waitMs`, `rsp`, and `sr`: DESIGN CHOICE zero. -/
def State.resetWith (p : Params) : State :=
  { par := p
    shadow := List.replicate (8 * p.devices) 0x00
    tlen := 0
    tbuf := []
    seq := .idle
    pos := 0
    dataPin := false
    clkPin := .idle
    latchPin := .inactive
    waitReq := false
    waitMs := 0
    rsp := 0x00
    rspValid := false
    trace := []
    earlier := []
    sr := List.replicate (16 * p.devices) false
    dev := []
    powerUps := []
    host := [] }

/-- The machine right after reset. -/
def State.reset : State := State.resetWith resetParams

end Sys2Proof.Machine
end

