-- ==== Sys2Proof/Machine/Ops.lean ====
section
/-! DEFINITION. The named operations over registers, memories, pins and ports, the elementary actions a command is made of,
running them, and reset. The block has no exception to take and none to return from (rules R260, R265, R266): what
another machine would trap on is `ignore` (rule R261). -/

namespace Sys2Proof.Machine

/-! ## Shadow bank and text buffer -/

/-- `SHADOW[d][i]` (rule R51). -/
def State.shadowAt (s : State) (d i : Nat) : Byte := s.shadow.getD (8 * d + i) 0x00

/-- `SHADOW[d][i] <- v` (rule R51). -/
def State.setShadow (s : State) (d i : Nat) (v : Byte) : State :=
  { s with shadow := s.shadow.set (8 * d + i) v }

/-- `TBUF[k]` (rule R52), none where the slot holds no value. -/
def State.textAt (s : State) (k : Nat) : Option Slot := Mem.read s.tbuf k

/-- `TBUF[k] <- sl` (rule R52). -/
def State.setText (s : State) (k : Nat) (sl : Slot) : State := { s with tbuf := Mem.write s.tbuf k sl }

/-- `TLEN <- v` (rule R201). -/
def State.setLen (s : State) (v : Byte) : State := { s with tlen := v }

/-! ## Ports and trace -/

/-- `Emit(e)` (rule R33). -/
def State.emit (s : State) (e : Event) : State := { s with trace := e :: s.trace }

/-- `Respond(v)` (rule R86). -/
def State.respond (s : State) (v : Byte) : State := { s with rsp := v, rspValid := true }.emit (.resp v)

/-- The request of `Wait(ms)` (rule R208); the block is then held with `job` to go on with. -/
def State.requestWait (s : State) (ms : Duration) (job : ScrollJob) : State :=
  { s with waitMs := ms, waitReq := true, seq := .waiting job }.emit (.waitReq ms)

/-- The end of a `Wait`: `WAIT_REQ <- 0` (rule R208). -/
def State.releaseWait (s : State) : State := { s with waitReq := false, seq := .idle }

/-- The block is ready for a command (rule R85). -/
def State.ready (s : State) : Bool := decide (s.seq = .idle)

/-! ## The chain (rules R138, R139) -/

/-- The address of `DEV[p][op]`. -/
def devKey (p : Nat) (op : Byte) : Nat := 256 * p + op.toNat

/-- How often the device at position `p` has powered up on its own. -/
def State.powerUpCount (s : State) (p : Nat) : Nat := (Mem.read s.powerUps p).getD 0

/-- `DEV[p][op]`: the last data byte committed since the device's last power-up, or the free value that power-up left
(rule R139, U8). -/
def State.devAt (s : State) (p : Nat) (op : Byte) : Byte :=
  (Mem.read s.dev (devKey p op)).getD (Config.powerUpReg (s.powerUpCount p) p op)

/-- `DEV[p][op] <- data`. -/
def State.writeDevice (s : State) (p : Nat) (op data : Byte) : State :=
  { s with dev := Mem.write s.dev (devKey p op) data }

/-- Device `p` commits a frame (rule R139): nothing for `OP_NOOP`, else the selected register takes the data byte. -/
def commitFrame (dev : List (Nat × Byte)) (p : Nat) (f : WireFrame) : List (Nat × Byte) :=
  if frameOp f = opNoop then dev else Mem.write dev (devKey p (frameOp f)) (frameData f)

/-- Every device of an `n`-device chain commits the frame it holds in `sr` (rule R139). -/
def commitAll (n : Nat) (sr : List Bool) (dev : List (Nat × Byte)) : List (Nat × Byte) :=
  (List.range n).foldl (fun dev p => commitFrame dev p (frameAt sr p)) dev

/-- The device at position `p` powers up, or resets on its own (rule R299): nothing is committed to it any more, and its
registers and its part of the shift register take new free values. The block does not notice. -/
def State.devicePowerUp (s : State) (p : Nat) : State :=
  let n := s.powerUpCount p + 1
  { s with
    dev := s.dev.filter fun e => decide (e.1 / 256 ≠ p)
    powerUps := Mem.write s.powerUps p n
    sr := s.sr.take (16 * p) ++ frameBits (Config.powerUpFrame n p) ++ s.sr.drop (16 * p + 16) }

/-! ## The pins (rules R27, R134) -/

/-- `DATA <- b`. -/
def State.driveData (s : State) (b : Bool) : State := { s with dataPin := b }

/-- `CLK <- pulsed`: the leading edge, the chain samples `DATA` and shifts by one (rule R138). -/
def State.clkRise (s : State) : State :=
  { s with clkPin := .pulsed, sr := shiftIn s.par.devices s.sr s.dataPin }

/-- `CLK <- idle`. -/
def State.clkFall (s : State) : State := { s with clkPin := .idle }

/-- `LATCH <- active`: the leading edge, every device commits the 16 bits it holds (rule R139). -/
def State.latchRise (s : State) : State :=
  { s with latchPin := .active, dev := commitAll s.par.devices s.sr s.dev }

/-- `LATCH <- inactive`. -/
def State.latchFall (s : State) : State := { s with latchPin := .inactive }

/-- The physical level of the pin `CLK` (rules R7, R27). -/
def State.clkPhysical (s : State) : Bool :=
  match s.clkPin with
  | .idle => s.par.clkIdleLevel
  | .pulsed => !s.par.clkIdleLevel

/-- The physical level of the pin `LATCH` (rules R7, R27). -/
def State.latchPhysical (s : State) : Bool :=
  match s.latchPin with
  | .active => s.par.latchActiveLevel
  | .inactive => !s.par.latchActiveLevel

/-! ## Elementary actions -/

/-- One elementary action of a command: an assignment or an `Emit` of its pseudocode; `Respond` and the request of `Wait`,
whose assignments a reset wipes out, are one action each. -/
inductive Action where
  | writeShadow (d i : Nat) (v : Byte)
  /-- `DATA <- b`. -/
  | data (b : Bool)
  /-- `CLK <- pulsed`. -/
  | clkRise
  /-- `CLK <- idle`. -/
  | clkFall
  /-- `LATCH <- active`. -/
  | latchRise
  /-- `LATCH <- inactive`. -/
  | latchFall
  | emit (e : Event)
  | respond (v : Byte)
  | writeText (k : Nat) (sl : Slot)
  | writeLen (v : Byte)
  | request (ms : Duration) (job : ScrollJob)
  | release
  /-- The device at position `State.pos` writes its register `op` (a wire frame executed by its device). -/
  | writeReg (op data : Byte)
  /-- A read of a text slot that holds no value (rule R214). -/
  | readUnwritten (k : Nat)
  deriving DecidableEq, Repr

/-- The effect of an action. -/
def State.act (s : State) : Action → State
  | .writeShadow d i v => s.setShadow d i v
  | .data b => s.driveData b
  | .clkRise => s.clkRise
  | .clkFall => s.clkFall
  | .latchRise => s.latchRise
  | .latchFall => s.latchFall
  | .emit e => s.emit e
  | .respond v => s.respond v
  | .writeText k sl => s.setText k sl
  | .writeLen v => s.setLen v
  | .request ms job => s.requestWait ms job
  | .release => s.releaseWait
  | .writeReg op data => s.writeDevice s.pos op data
  | .readUnwritten _ => s

/-- The refusal an action stops with, if it does (rule R214). -/
def Action.stops : Action → Option Refusal
  | .readUnwritten k => some (.unwrittenTextSlot k)
  | _ => none

/-- Run a command's actions in order (rule R61). -/
def runActions : List Action → State → StepOutcome
  | [], s => .next s
  | a :: as, s =>
    match a.stops with
    | some r => .refused r
    | none => runActions as (s.act a)

/-- `ignore` (rule R261): no action at all. -/
def ignoreActions : List Action := []

/-! ## Reset -/

/-- The reset input (rules R290 to R293): every piece of the block's state takes its reset value and a pending wait is
dropped; the parameters, the chain and the events already emitted stay, and reset emits none. -/
def State.hardReset (s : State) : State :=
  { State.resetWith s.par with
    earlier := s.trace ++ s.earlier
    sr := s.sr
    dev := s.dev
    powerUps := s.powerUps
    host := s.host }

/-- A reset that arrives after `n` of the actions (rule R293): the rest is abandoned. -/
def runThenReset (n : Nat) (acts : List Action) (s : State) : StepOutcome :=
  match runActions (acts.take n) s with
  | .next t => .next t.hardReset
  | .fault r => .fault r
  | .refused r => .refused r

end Sys2Proof.Machine
end

