-- ==== Sys2Proof/Machine/Bus.lean ====
section
/-! DEFINITION. The SerialBus (41_serial_bus.md), and the common write of 43_digit_commands.md rule R180. -/

namespace Sys2Proof.Machine

/-- One bit of `ShiftOut` (rule R134). -/
def pulseActions (b : Bool) : List Action := [.data b, .clkRise, .clkFall, .emit (.bit b)]

/-- `ShiftOut(F)` (rule R134): one clock pulse per bit. -/
def shiftOutActions (frames : List WireFrame) : List Action := (shiftOrder frames).flatMap pulseActions

/-- `LatchPulse` (rule R134). -/
def latchPulseActions : List Action := [.latchRise, .latchFall, .emit .latch]

/-- `Transmit(t, op, data)` (rules R130, R131, R135): `N` frames shifted, then one latch pulse. -/
def transmitActions (p : Params) (t : Nat) (op data : Byte) : List Action :=
  shiftOutActions (frameVector p.devices t (mkFrame op data)) ++ latchPulseActions

/-- `WriteDigit(d, i, pat)` (rule R180): shadow first, then the transaction. -/
def writeDigitActions (p : Params) (d i : Nat) (pat : Byte) : List Action :=
  .writeShadow d i pat :: transmitActions p d (digitOp p.ops i) pat

/-- The body of CLEAR (rule R181): the eight digit positions in ascending order. -/
def blankDigitsActions (p : Params) (d : Nat) : List Action :=
  (List.range 8).flatMap fun i => writeDigitActions p d i 0x00

end Sys2Proof.Machine
end

