-- ==== Sys2Proof/Machine/Operands.lean ====
section
/-! DEFINITION. Operand forms: the range checks of 30_encoding.md rule R95 and the operand assembly of rules R91 to R94. -/

namespace Sys2Proof.Machine

/-- `ADDR < N`. -/
def devOk (p : Params) (d : Nat) : Bool := decide (d < p.devices)

/-- `POS <= 7`. -/
def posOk (pos : Nat) : Bool := decide (pos ≤ 7)

/-- `VAL <= 15`. -/
def valOk (val : Nat) : Bool := decide (val ≤ 15)

/-- `1 <= LIMIT <= 8`. -/
def limitOk (limit : Nat) : Bool := decide (1 ≤ limit ∧ limit ≤ 8)

/-- `LEVEL <= 15`. -/
def levelOk (level : Nat) : Bool := decide (level ≤ 15)

/-- `IDX <= CAP - 2`, none valid when `CAP` = 1. -/
def idxOk (p : Params) (idx : Nat) : Bool := decide (2 ≤ p.cap ∧ idx ≤ p.cap - 2)

/-- `LEN <= CAP - 1`. -/
def lenOk (p : Params) (len : Nat) : Bool := decide (len ≤ p.cap - 1)

/-- `HexChar(v)` for `v` in 0..15 (rule R91). -/
def hexChar (v : Nat) : Byte :=
  if v ≤ 9 then BitVec.ofNat 8 (0x30 + v) else BitVec.ofNat 8 (0x41 + (v - 10))

/-- The data byte of a scan limit, `LIMIT - 1` (rule R92). -/
def limitData (limit : Nat) : Byte := BitVec.ofNat 8 (limit - 1)

/-- The data byte of an intensity, the level itself (rule R94). -/
def levelData (level : Nat) : Byte := BitVec.ofNat 8 level

/-- The data byte of a shutdown flag (rule R93). -/
def shutdownData (p : Params) (on : Bool) : Byte := if on then p.dataShutdownOn else p.dataShutdownOff

end Sys2Proof.Machine
end

