-- ==== Sys2Proof/Machine/Control.lean ====
section
/-! DEFINITION. The control commands (42_control_commands.md). Each command is the list of its actions, run to the end. -/

namespace Sys2Proof.Machine

/-- DEVCNT (rule R160). -/
def actsDevcnt (s : State) : List Action := [.respond (BitVec.ofNat 8 s.par.devices)]

/-- SHUTDN (rule R161). -/
def actsShutdn (d : Nat) (on : Bool) (s : State) : List Action :=
  if devOk s.par d then transmitActions s.par d s.par.ops.shutdown (shutdownData s.par on) else ignoreActions

/-- SCANLIM (rule R162). -/
def actsScanlim (d limit : Nat) (s : State) : List Action :=
  if devOk s.par d && limitOk limit then transmitActions s.par d s.par.ops.scanLimit (limitData limit)
  else ignoreActions

/-- INTENS (rule R163). -/
def actsIntens (d level : Nat) (s : State) : List Action :=
  if devOk s.par d && levelOk level then transmitActions s.par d s.par.ops.intensity (levelData level)
  else ignoreActions

/-- INIT (rule R164). -/
def actsInit (d : Nat) (s : State) : List Action :=
  if devOk s.par d then
    transmitActions s.par d s.par.ops.displayTest s.par.dataTestOff ++
      transmitActions s.par d s.par.ops.decodeMode s.par.dataNoDecode ++ blankDigitsActions s.par d
  else ignoreActions

/-- The meaning of DEVCNT. -/
def execDevcnt (s : State) : StepOutcome := runActions (actsDevcnt s) s

/-- The meaning of SHUTDN. -/
def execShutdn (d : Nat) (on : Bool) (s : State) : StepOutcome := runActions (actsShutdn d on s) s

/-- The meaning of SCANLIM. -/
def execScanlim (d limit : Nat) (s : State) : StepOutcome := runActions (actsScanlim d limit s) s

/-- The meaning of INTENS. -/
def execIntens (d level : Nat) (s : State) : StepOutcome := runActions (actsIntens d level s) s

/-- The meaning of INIT. -/
def execInit (d : Nat) (s : State) : StepOutcome := runActions (actsInit d s) s

end Sys2Proof.Machine
end

