-- ==== Sys2Proof/Machine/Encoder.lean ====
section
/-! DEFINITION. The SegmentEncoder (40_encoder.md). -/

namespace Sys2Proof.Machine

/-- `Encode(c)` (rules R110 to R112): blank for codes of 128 and more, else the table entry. -/
def encodeChar (p : Params) (c : Byte) : Byte :=
  if c.getLsbD 7 then 0x00 else romRead p (c.extractLsb' 0 7)

/-- `HexGlyph(v)` (rule R121). -/
def hexGlyph (p : Params) (v : Nat) : Byte := encodeChar p (hexChar v)

end Sys2Proof.Machine
end

