-- ==== Sys2Proof/Machine/Flags.lean ====
section
/-! DEFINITION. Flags. The block has no status flag and no condition code (10_state.md rule R31), so no command computes one;
the only flag is the decimal-point flag a command or a text slot carries. -/

namespace Sys2Proof.Machine

/-- The decimal-point merge `g | (dp ? 0x80 : 0x00)` (30_encoding.md rule R90). -/
def mergeDp (g : Byte) (dp : Bool) : Byte := g ||| (if dp then 0x80 else 0x00)

end Sys2Proof.Machine
end

