-- ==== Sys2Proof/Machine/Digit.lean ====
section
/-! DEFINITION. The digit commands (43_digit_commands.md). -/

namespace Sys2Proof.Machine

/-- CLEAR (rule R181). -/
def actsClear (d : Nat) (s : State) : List Action :=
  if devOk s.par d then blankDigitsActions s.par d else ignoreActions

/-- SETDIGIT (rule R182). -/
def actsSetdigit (d pos val : Nat) (dp : Bool) (s : State) : List Action :=
  if devOk s.par d && posOk pos && valOk val then
    writeDigitActions s.par d pos (mergeDp (hexGlyph s.par val) dp)
  else ignoreActions

/-- SETCHAR (rule R183). -/
def actsSetchar (d pos : Nat) (ch : Byte) (dp : Bool) (s : State) : List Action :=
  if devOk s.par d && posOk pos then writeDigitActions s.par d pos (mergeDp (encodeChar s.par ch) dp)
  else ignoreActions

/-- RDSHADOW (rule R184): the one command that responds out of range. -/
def actsRdshadow (d pos : Nat) (s : State) : List Action :=
  if devOk s.par d && posOk pos then [.respond (s.shadowAt d pos)] else [.respond 0x00]

/-- The meaning of CLEAR. -/
def execClear (d : Nat) (s : State) : StepOutcome := runActions (actsClear d s) s

/-- The meaning of SETDIGIT. -/
def execSetdigit (d pos val : Nat) (dp : Bool) (s : State) : StepOutcome :=
  runActions (actsSetdigit d pos val dp s) s

/-- The meaning of SETCHAR. -/
def execSetchar (d pos : Nat) (ch : Byte) (dp : Bool) (s : State) : StepOutcome :=
  runActions (actsSetchar d pos ch dp s) s

/-- The meaning of RDSHADOW. -/
def execRdshadow (d pos : Nat) (s : State) : StepOutcome := runActions (actsRdshadow d pos s) s

end Sys2Proof.Machine
end

