-- ==== Sys2Proof/Machine/Reserved.lean ====
section
/-! DEFINITION. The reserved command opcodes (30_encoding.md rule R84): each is executed as `ignore`. -/

namespace Sys2Proof.Machine

/-- The meaning of RESERVED_0. -/
def execReserved0 (s : State) : StepOutcome := runActions ignoreActions s

/-- The meaning of RESERVED_E. -/
def execReservedE (s : State) : StepOutcome := runActions ignoreActions s

/-- The meaning of RESERVED_F. -/
def execReservedF (s : State) : StepOutcome := runActions ignoreActions s

end Sys2Proof.Machine
end

