-- ==== Sys2Proof/Machine/Scroll.lean ====
section
/-! DEFINITION. The text buffer, the frame refresh and the scroll engine (44_refresh_scroll.md). -/

namespace Sys2Proof.Machine

/-- `Window(o, j)` (rule R203): the pattern of slot `j` at offset `o`, none where the slot read holds no value. -/
def window (s : State) (o j : Nat) : Option Byte :=
  if o + j < s.tlen.toNat then
    (s.textAt (o + j)).map fun sl => mergeDp (encodeChar s.par sl.ch) sl.dp
  else some 0x00

/-- One slot of a frame: the digit write of rule R205, or the refused read of rule R214. -/
def slotActions (s : State) (d o j : Nat) : List Action :=
  match window s o j with
  | some pat => writeDigitActions s.par d (windowPos s.par j) pat
  | none => [.readUnwritten (o + j)]

/-- `RefreshFrame(d, o)` (rule R205): slots 0 to 7 in ascending order. -/
def refreshActions (s : State) (d o : Nat) : List Action := (List.range 8).flatMap (slotActions s d o)

/-- The frame count `F = L - 8 + 1 + PAD` of a scroll (rule R207). -/
def frameCount (p : Params) (len : Nat) : Nat := len - 8 + 1 + p.pad

/-- Frame `job.k` of a scroll and the wait that follows it (rule R206). -/
def scrollFrameActions (s : State) (job : ScrollJob) : List Action :=
  refreshActions s job.d job.k ++
    (if job.k < job.frames - 1 ∨ s.par.suspendAfterLast then
      [.request job.ms { job with k := job.k + 1 }] else [])

/-- TXTWR (rule R200). -/
def actsTxtwr (idx : Nat) (ch : Byte) (dp : Bool) (s : State) : List Action :=
  if idxOk s.par idx then [.writeText idx { ch := ch, dp := dp }] else ignoreActions

/-- TXTLEN (rule R201). -/
def actsTxtlen (len : Nat) (s : State) : List Action :=
  if lenOk s.par len then [.writeLen (BitVec.ofNat 8 len)] else ignoreActions

/-- FRAME (rule R204). -/
def actsFrame (d off : Nat) (s : State) : List Action :=
  if devOk s.par d then refreshActions s d off else ignoreActions

/-- RENDER up to its first wait (rules R206, R210): a static frame and its wait, or the first frame of a scroll. -/
def actsRender (d : Nat) (dur : Duration) (s : State) : List Action :=
  if devOk s.par d then
    let len := s.tlen.toNat
    if len ≤ 8 then
      refreshActions s d 0 ++ [.request dur { d := d, k := 1, frames := 1, ms := dur }]
    else
      let frames := frameCount s.par len
      scrollFrameActions s { d := d, k := 0, frames := frames, ms := frameDuration s.par dur len frames }
  else ignoreActions

/-- What RENDER does from an acknowledgement to its next wait or its end (rules R206, R208). -/
def resumeActions (job : ScrollJob) (s : State) : List Action :=
  .release :: (if job.k < job.frames then scrollFrameActions s job else [])

/-- The meaning of TXTWR. -/
def execTxtwr (idx : Nat) (ch : Byte) (dp : Bool) (s : State) : StepOutcome :=
  runActions (actsTxtwr idx ch dp s) s

/-- The meaning of TXTLEN. -/
def execTxtlen (len : Nat) (s : State) : StepOutcome := runActions (actsTxtlen len s) s

/-- The meaning of FRAME. -/
def execFrame (d off : Nat) (s : State) : StepOutcome := runActions (actsFrame d off s) s

/-- The meaning of RENDER: the part of rule R211 up to and including its first wait request. -/
def execRender (d : Nat) (dur : Duration) (s : State) : StepOutcome := runActions (actsRender d dur s) s

end Sys2Proof.Machine
end

