-- ==== Sys2Proof/Machine/Wire.lean ====
section
/-! DEFINITION. The wire frames (30_encoding.md rule R99), executed by the device of the chain that holds the frame when the
latch pulses: position `State.pos` (41_serial_bus.md rule R139). -/

namespace Sys2Proof.Machine

/-- Register `op` of the device at `State.pos` takes the data byte. -/
def execRegister (op data : Byte) (s : State) : StepOutcome := runActions [.writeReg op data] s

/-- The meaning of W_NOOP: the device changes nothing (rules R137, R139). -/
def execWNoop (s : State) : StepOutcome := runActions ignoreActions s

/-- The meaning of W_DIGIT0. -/
def execWDigit0 (data : Byte) (s : State) : StepOutcome := execRegister (digitOp s.par.ops 0) data s

/-- The meaning of W_DIGIT1. -/
def execWDigit1 (data : Byte) (s : State) : StepOutcome := execRegister (digitOp s.par.ops 1) data s

/-- The meaning of W_DIGIT2. -/
def execWDigit2 (data : Byte) (s : State) : StepOutcome := execRegister (digitOp s.par.ops 2) data s

/-- The meaning of W_DIGIT3. -/
def execWDigit3 (data : Byte) (s : State) : StepOutcome := execRegister (digitOp s.par.ops 3) data s

/-- The meaning of W_DIGIT4. -/
def execWDigit4 (data : Byte) (s : State) : StepOutcome := execRegister (digitOp s.par.ops 4) data s

/-- The meaning of W_DIGIT5. -/
def execWDigit5 (data : Byte) (s : State) : StepOutcome := execRegister (digitOp s.par.ops 5) data s

/-- The meaning of W_DIGIT6. -/
def execWDigit6 (data : Byte) (s : State) : StepOutcome := execRegister (digitOp s.par.ops 6) data s

/-- The meaning of W_DIGIT7. -/
def execWDigit7 (data : Byte) (s : State) : StepOutcome := execRegister (digitOp s.par.ops 7) data s

/-- The meaning of W_DECODEMODE. -/
def execWDecodemode (data : Byte) (s : State) : StepOutcome := execRegister (s.par.ops.decodeMode) data s

/-- The meaning of W_INTENSITY. -/
def execWIntensity (data : Byte) (s : State) : StepOutcome := execRegister (s.par.ops.intensity) data s

/-- The meaning of W_SCANLIMIT. -/
def execWScanlimit (data : Byte) (s : State) : StepOutcome := execRegister (s.par.ops.scanLimit) data s

/-- The meaning of W_SHUTDOWN. -/
def execWShutdown (data : Byte) (s : State) : StepOutcome := execRegister (s.par.ops.shutdown) data s

/-- The meaning of W_DISPLAYTEST. -/
def execWDisplaytest (data : Byte) (s : State) : StepOutcome := execRegister (s.par.ops.displayTest) data s

end Sys2Proof.Machine
end

