-- ==== Sys2Proof/Machine/Dispatch.lean ====
section
/-! DEFINITION. The meaning of every instruction, one arm per constructor. -/

namespace Sys2Proof.Machine

def exec (i : Instr) (s : State) : Host.Outcome State Fault Refusal :=
  match i with
  | .devcnt => Sys2Proof.Machine.execDevcnt s
  | .shutdn d on => Sys2Proof.Machine.execShutdn d on s
  | .scanlim d limit => Sys2Proof.Machine.execScanlim d limit s
  | .intens d level => Sys2Proof.Machine.execIntens d level s
  | .clear d => Sys2Proof.Machine.execClear d s
  | .setdigit d pos val dp => Sys2Proof.Machine.execSetdigit d pos val dp s
  | .setchar d pos ch dp => Sys2Proof.Machine.execSetchar d pos ch dp s
  | .init d => Sys2Proof.Machine.execInit d s
  | .rdshadow d pos => Sys2Proof.Machine.execRdshadow d pos s
  | .txtwr idx ch dp => Sys2Proof.Machine.execTxtwr idx ch dp s
  | .txtlen len => Sys2Proof.Machine.execTxtlen len s
  | .frame d off => Sys2Proof.Machine.execFrame d off s
  | .render d dur => Sys2Proof.Machine.execRender d dur s
  | .reserved0 => Sys2Proof.Machine.execReserved0 s
  | .reservedE => Sys2Proof.Machine.execReservedE s
  | .reservedF => Sys2Proof.Machine.execReservedF s
  | .wNoop => Sys2Proof.Machine.execWNoop s
  | .wDigit0 data => Sys2Proof.Machine.execWDigit0 data s
  | .wDigit1 data => Sys2Proof.Machine.execWDigit1 data s
  | .wDigit2 data => Sys2Proof.Machine.execWDigit2 data s
  | .wDigit3 data => Sys2Proof.Machine.execWDigit3 data s
  | .wDigit4 data => Sys2Proof.Machine.execWDigit4 data s
  | .wDigit5 data => Sys2Proof.Machine.execWDigit5 data s
  | .wDigit6 data => Sys2Proof.Machine.execWDigit6 data s
  | .wDigit7 data => Sys2Proof.Machine.execWDigit7 data s
  | .wDecodemode data => Sys2Proof.Machine.execWDecodemode data s
  | .wIntensity data => Sys2Proof.Machine.execWIntensity data s
  | .wScanlimit data => Sys2Proof.Machine.execWScanlimit data s
  | .wShutdown data => Sys2Proof.Machine.execWShutdown data s
  | .wDisplaytest data => Sys2Proof.Machine.execWDisplaytest data s

end Sys2Proof.Machine
end

