-- ==== Sys2Proof/Machine/Moves.lean ====
section
/-! DEFINITION. What one move of the environment does to the machine (60_exceptions.md rule R273): a command word, an
acknowledgement, a reset, another agent on the pins. -/

namespace Sys2Proof.Machine

/-- The actions of a command, for a reset that falls inside it (rule R293). A wire frame is no command. -/
def commandActions (i : Instr) (s : State) : List Action :=
  match i with
  | .devcnt => actsDevcnt s
  | .shutdn d on => actsShutdn d on s
  | .scanlim d limit => actsScanlim d limit s
  | .intens d level => actsIntens d level s
  | .clear d => actsClear d s
  | .setdigit d pos val dp => actsSetdigit d pos val dp s
  | .setchar d pos ch dp => actsSetchar d pos ch dp s
  | .init d => actsInit d s
  | .rdshadow d pos => actsRdshadow d pos s
  | .txtwr idx ch dp => actsTxtwr idx ch dp s
  | .txtlen len => actsTxtlen len s
  | .frame d off => actsFrame d off s
  | .render d dur => actsRender d dur s
  | .reserved0 => ignoreActions
  | .reservedE => ignoreActions
  | .reservedF => ignoreActions
  | .wNoop => ignoreActions
  | .wDigit0 _ => ignoreActions
  | .wDigit1 _ => ignoreActions
  | .wDigit2 _ => ignoreActions
  | .wDigit3 _ => ignoreActions
  | .wDigit4 _ => ignoreActions
  | .wDigit5 _ => ignoreActions
  | .wDigit6 _ => ignoreActions
  | .wDigit7 _ => ignoreActions
  | .wDecodemode _ => ignoreActions
  | .wIntensity _ => ignoreActions
  | .wScanlimit _ => ignoreActions
  | .wShutdown _ => ignoreActions
  | .wDisplaytest _ => ignoreActions

/-- The command a word selects, run to its end or to its first wait (rules R85, R211). -/
def presentCommand (w : CommandWord) (s : State) : StepOutcome := exec (decodeCommand w) s

/-- The acknowledgement ends a pending wait and RENDER goes on; without a pending wait it has no effect
(rules R208, R273). -/
def acknowledge (s : State) : StepOutcome :=
  match s.seq with
  | .idle => .next s
  | .waiting job => runActions (resumeActions job s) s

/-- A reset that falls inside what an acknowledgement sets going (rule R293). -/
def acknowledgeThenReset (n : Nat) (s : State) : StepOutcome :=
  match s.seq with
  | .idle => .next s.hardReset
  | .waiting job => runThenReset n (resumeActions job s) s

/-- The chain after another agent has shifted the frame vector of a transaction in (rule R138); the block's pins and
trace have no part in it. -/
def State.shiftForeign (s : State) (t : Nat) (f : WireFrame) : State :=
  { s with
    sr := (shiftOrder (frameVector s.par.devices t f)).foldl (shiftIn s.par.devices) s.sr
    pos := t }

/-- Another agent's whole transaction (rules R66, R297, R299): the device at position `t` executes the frame, the others
a no-op. A position outside the chain is no transaction (rule R142). An opcode byte of 0 changes nothing whatever the
data byte (rule R139); an opcode outside rule R99's set is refused (U6). -/
def foreignTransaction (t : Nat) (f : WireFrame) (s : State) : StepOutcome :=
  if t < s.par.devices then
    match decodeWire s.par.ops f with
    | .ok i => exec i (s.shiftForeign t f)
    | .error (.noopWithData _) => .next (s.shiftForeign t f)
    | .error (.unknownWireOpcode op) => .refused (.unknownWireOpcode op)
  else .next s

/-- One move of the environment. A command presented to a busy block is outside the specification and refused (rule R300,
U4). Without a move a step changes nothing: a block held in a wait is held for ever (rule R301). -/
def hostStep (s : State) : StepOutcome :=
  match s.host with
  | [] => .next s
  | .command w :: rest => if s.ready then presentCommand w { s with host := rest } else .refused .commandWhileBusy
  | .ack :: rest => acknowledge { s with host := rest }
  | .reset :: rest => .next { s with host := rest }.hardReset
  | .commandThenReset w n :: rest =>
    if s.ready then
      runThenReset n (commandActions (decodeCommand w) { s with host := rest }) { s with host := rest }
    else .refused .commandWhileBusy
  | .ackThenReset n :: rest => acknowledgeThenReset n { s with host := rest }
  | .wire t f :: rest => foreignTransaction t f { s with host := rest }
  | .strayPulse :: _ => .refused .disturbedTransaction
  | .devicePowerUp p :: rest =>
    .next (if p < s.par.devices then { s with host := rest }.devicePowerUp p else { s with host := rest })

/-- Make a code the next thing the machine runs: a command word is presented to the ready block, a wire frame is latched
by the device at position 0. -/
def State.withCode (s : State) : Code → State
  | .command w => { s with seq := .idle, waitReq := false, host := .command w :: s.host }
  | .wire f => { s with host := .wire 0 f :: s.host }

end Sys2Proof.Machine
end

