-- ==== Sys2Proof/Machine/Step.lean ====
section
/-! DEFINITION. One step of the machine: the next move of the environment and all it sets going. -/

namespace Sys2Proof.Machine

/-- One step (rules R211, R306). -/
def step : State → Host.Outcome State Fault Refusal := hostStep

/-- `s` with the row's word or frame as the next thing step runs: 16 bits are a wire frame, anything else a command
word. -/
def State.withFetchWord (s : State) (nbits w : Nat) : State :=
  if nbits = 16 then s.withCode (.wire (BitVec.ofNat 16 w)) else s.withCode (.command (BitVec.ofNat 32 w))

end Sys2Proof.Machine
end

