-- ==== Sys2Proof/Machine/Observe.lean ====
section
/-! DEFINITION. What a claim observes (10_state.md rule R33): the output trace, its coarse view, what was last sent to a
register, and the net effect of transactions at the level of frames. No step uses these. -/

namespace Sys2Proof.Machine

/-- The output trace, oldest event first (rule R33). -/
def State.outputTrace (s : State) : List Event := (s.trace ++ s.earlier).reverse

/-- The events of the coarse view of rule R33: a run of `16 * N` bits and a latch is one commit, every other event stays. -/
inductive CoarseEvent where
  | commit (frames : List WireFrame)
  | bit (b : Bool)
  | latch
  | waitReq (ms : Duration)
  | resp (v : Byte)
  deriving DecidableEq, Repr

/-- The frames held by an `n`-device chain. -/
def framesOf (n : Nat) (sr : List Bool) : List WireFrame := (List.range n).map (frameAt sr)

/-- Bits that belong to no run, listed newest first, as events, oldest first. -/
def looseBits (acc : List Bool) : List CoarseEvent := acc.reverse.map .bit

/-- What a latch closes, the bits just before it listed newest first: a run of `16 * n` bits after the older bits, or, where
there are fewer, the bits and the latch as they are. -/
def closeRun (n : Nat) (acc : List Bool) : List CoarseEvent :=
  if 16 * n ≤ acc.length then looseBits (acc.drop (16 * n)) ++ [.commit (framesOf n acc)]
  else looseBits acc ++ [.latch]

/-- The coarse view of a trace, oldest event first; `acc` holds the bits since the last other event, newest first. -/
def coarseFrom (n : Nat) (acc : List Bool) : List Event → List CoarseEvent
  | [] => looseBits acc
  | .bit b :: es => coarseFrom n (b :: acc) es
  | .latch :: es => closeRun n acc ++ coarseFrom n [] es
  | .waitReq ms :: es => looseBits acc ++ .waitReq ms :: coarseFrom n [] es
  | .resp v :: es => looseBits acc ++ .resp v :: coarseFrom n [] es

/-- The coarse view of the output trace. -/
def State.coarseTrace (s : State) : List CoarseEvent := coarseFrom s.par.devices [] s.outputTrace

/-- The events a coarse event stands for. -/
def CoarseEvent.expand : CoarseEvent → List Event
  | .commit frames => (shiftOrder frames).map .bit ++ [.latch]
  | .bit b => [.bit b]
  | .latch => [.latch]
  | .waitReq ms => [.waitReq ms]
  | .resp v => [.resp v]

/-- The value of a `Bit` event. -/
def Event.bitValue : Event → Bool
  | .bit b => b
  | _ => false

/-- The data byte of the last transaction that carried opcode `op` to position `d` of an `n`-device chain, in a trace
listed newest event first (rule R21). -/
def lastSent (n d : Nat) (op : Byte) : List Event → Option Byte
  | [] => none
  | .latch :: es =>
    let f := frameAt ((es.take (16 * n)).map Event.bitValue) d
    if frameOp f = op then some (frameData f) else lastSent n d op es
  | .bit _ :: es => lastSent n d op es
  | .waitReq _ :: es => lastSent n d op es
  | .resp _ :: es => lastSent n d op es

/-- The last response in a trace listed newest event first (rule R86). -/
def lastResp : List Event → Option Byte
  | [] => none
  | .resp v :: _ => some v
  | .bit _ :: es => lastResp es
  | .latch :: es => lastResp es
  | .waitReq _ :: es => lastResp es

/-- The number of latch pulses, that is of transactions, in a trace. -/
def transactions (es : List Event) : Nat := es.countP fun e => decide (e = .latch)

/-- The number of wait requests in a trace. -/
def waitRequests (es : List Event) : Nat := es.countP fun e => match e with
  | .waitReq _ => true
  | _ => false

/-- The events of one transaction, oldest first (rules R134, R140). -/
def transactionEvents (n t : Nat) (op data : Byte) : List Event :=
  (shiftOrder (frameVector n t (mkFrame op data))).map .bit ++ [.latch]

/-- The events of writing digits of device `d`, a list of (digit, pattern) pairs in order (rule R180). -/
def digitEvents (p : Params) (d : Nat) (pats : List (Nat × Byte)) : List Event :=
  pats.flatMap fun e => transactionEvents p.devices d (digitOp p.ops e.1) e.2

/-- The pattern rule R203 shows in slot `j` of the frame at offset `o`, the text being loaded (rule R304). -/
def State.shownAt (s : State) (o j : Nat) : Byte :=
  if o + j < s.tlen.toNat then
    match s.textAt (o + j) with
    | some sl => mergeDp (encodeChar s.par sl.ch) sl.dp
    | none => 0x00
  else 0x00

/-- The digit writes of the frame at offset `o` (rule R205). -/
def State.frameDigits (s : State) (o : Nat) : List (Nat × Byte) :=
  (List.range 8).map fun j => (windowPos s.par j, s.shownAt o j)

/-- The events of frame `k` of a RENDER of `frames` frames whose waits are of `ms`: its digit writes in slot order, then the wait
request, which the last frame of a scroll has only where `SUSPEND_AFTER_LAST` is true (rules R205, R206, R210). -/
def State.renderFrameEvents (s : State) (d frames : Nat) (ms : Duration) (k : Nat) : List Event :=
  digitEvents s.par d (s.frameDigits k) ++
    if k + 1 < frames ∨ s.tlen.toNat ≤ 8 ∨ s.par.suspendAfterLast = true then [.waitReq ms] else []

/-- `t` differs from `s` at most in what transactions write: the shadow bank, the pin `DATA`, the trace since reset and
the chain; the other two pins are at rest. -/
def onlyDisplay (s t : State) : Prop :=
  t = { s with shadow := t.shadow, dataPin := t.dataPin, clkPin := .idle, latchPin := .inactive
               trace := t.trace, sr := t.sr, dev := t.dev }

/-- The state after one transaction, at the level of frames (rules R130, R131, R134, R139): the chain holds the frame
vector, register `op` of device `t` holds the data byte, the events are appended, `DATA` holds the last bit shifted
(rule R27). -/
def State.afterTransaction (s : State) (t : Nat) (op data : Byte) : State :=
  { s with
    dataPin := if t = 0 then data.getLsbD 0 else false
    clkPin := .idle
    latchPin := .inactive
    trace := (transactionEvents s.par.devices t op data).reverse ++ s.trace
    sr := (frameVector s.par.devices t (mkFrame op data)).flatMap frameBits
    dev := Mem.write s.dev (devKey t op) data }

/-- The chain's shift register and the pin `DATA` of `t` are what a transaction with `op` and `data` to device `d` leaves,
`s` being before it. -/
def lastTransaction (s t : State) (d : Nat) (op data : Byte) : Prop :=
  t.sr = (s.afterTransaction d op data).sr ∧ t.dataPin = (s.afterTransaction d op data).dataPin

/-- The block of `t` is at the reset values of rule R36, with the parameters of `s`; the chain, the earlier events and the moves
to come are not spoken of. -/
def blockAtReset (s t : State) : Prop :=
  t.par = s.par ∧ (∀ d i, t.shadowAt d i = 0x00) ∧ t.shadow.length = 8 * s.par.devices ∧
  t.tlen = 0 ∧ (∀ k, t.textAt k = none) ∧ t.seq = .idle ∧ t.ready = true ∧ t.waitReq = false ∧ t.rspValid = false ∧
  t.dataPin = false ∧ t.clkPin = .idle ∧ t.latchPin = .inactive ∧ t.trace = []

/-- The device and the shadow bank agree on a digit (rule R299). -/
def State.agreesAt (s : State) (d i : Nat) : Prop := s.devAt d (digitOp s.par.ops i) = s.shadowAt d i

/-- The wire instructions that carry `data`, each with the register opcode it writes (rule R99). -/
def wireWrites (ops : WireOps) (data : Byte) : List (Instr × Byte) :=
  [(.wDigit0 data, digitOp ops 0), (.wDigit1 data, digitOp ops 1), (.wDigit2 data, digitOp ops 2),
   (.wDigit3 data, digitOp ops 3), (.wDigit4 data, digitOp ops 4), (.wDigit5 data, digitOp ops 5),
   (.wDigit6 data, digitOp ops 6), (.wDigit7 data, digitOp ops 7), (.wDecodemode data, ops.decodeMode),
   (.wIntensity data, ops.intensity), (.wScanlimit data, ops.scanLimit), (.wShutdown data, ops.shutdown),
   (.wDisplaytest data, ops.displayTest)]

/-- The text slots the frame at offset `o` reads hold values (rule R304). -/
def State.windowLoaded (s : State) (o : Nat) : Prop :=
  ∀ j < 8, o + j < s.tlen.toNat → (s.textAt (o + j)).isSome = true

/-- `t` is `s` after the frame at offset `o` on device `d` (rule R205): each slot's pattern in the shadow register and in the
device register of the slot's position, every other shadow and device register as before, the eight transactions' events
appended in slot order, the chain and the pin `DATA` as the last of them leaves them, nothing else changed. -/
def frameShown (s t : State) (d o : Nat) : Prop :=
  onlyDisplay s t ∧
  (∀ j < 8, t.shadowAt d (windowPos s.par j) = s.shownAt o j) ∧
  (∀ d' i', d' ≠ d → i' < 8 → t.shadowAt d' i' = s.shadowAt d' i') ∧
  (∀ j < 8, t.devAt d (digitOp s.par.ops (windowPos s.par j)) = s.shownAt o j) ∧
  (∀ q op, (q ≠ d ∨ ∀ i < 8, op ≠ digitOp s.par.ops i) → t.devAt q op = s.devAt q op) ∧
  t.trace = (digitEvents s.par d (s.frameDigits o)).reverse ++ s.trace ∧
  lastTransaction s t d (digitOp s.par.ops (windowPos s.par 7)) (s.shownAt o 7)

/-- The bits of a command word that its command opcode's format uses (rule R81): the complement of the table's
`ignored_bits`. -/
def usedMask (cop : Nat) : CommandWord :=
  match cop with
  | 0x2 => 0xFF000001
  | 0x3 => 0xFF00FF00
  | 0x4 => 0xFF00FF00
  | 0x5 => 0xFF000000
  | 0x6 => 0xFFFFFF01
  | 0x7 => 0xFFFFFF01
  | 0x8 => 0xFF000000
  | 0x9 => 0xFFFF0000
  | 0xA => 0xF0FFFF01
  | 0xB => 0xF0FF0000
  | 0xC => 0xFFFF0000
  | 0xD => 0xFFFFFFFF
  | _ => 0xF0000000

end Sys2Proof.Machine
end

