-- ==== Sys2Proof/Machine/Invariant.lean ====
section
/-! DEFINITION. The invariants of the machine between two steps. -/

namespace Sys2Proof.Machine

/-- The text buffer: the length leaves the terminator's slot free, only writable slots are listed, in canonical form
(rules R26, R52). -/
abbrev State.textOk (s : State) : Prop :=
  s.tlen.toNat + 1 ≤ s.par.cap ∧ Mem.wf s.tbuf ∧ ∀ e ∈ s.tbuf, e.1 + 2 ≤ s.par.cap

/-- The chain: `16 * N` bits, registers of existing devices only, none under `OP_NOOP`, in canonical form
(rules R138, R139); power-ups of existing devices only, none listed that never happened. -/
abbrev State.chainOk (s : State) : Prop :=
  s.sr.length = 16 * s.par.devices ∧ Mem.wf s.dev ∧ s.pos < s.par.devices ∧
  (∀ e ∈ s.dev, e.1 < 256 * s.par.devices ∧ e.1 % 256 ≠ 0) ∧
  Mem.wf s.powerUps ∧ ∀ e ∈ s.powerUps, e.1 < s.par.devices ∧ e.2 ≠ 0

/-- The number of frames RENDER shows for a text of length `len` (rules R207, R210). -/
def renderFrames (p : Params) (len : Nat) : Nat := if len ≤ 8 then 1 else frameCount p len

/-- A held RENDER is inside its frames, on an existing device (rules R206, R213). -/
abbrev State.jobOk (s : State) (job : ScrollJob) : Prop :=
  job.d < s.par.devices ∧ 1 ≤ job.k ∧ job.k ≤ job.frames ∧ job.frames = renderFrames s.par s.tlen.toNat ∧
  s.waitMs = job.ms

/-- `WAIT_REQ` is 1 exactly while the block is inside a `Wait` (rule R28). -/
def State.waitOk (s : State) : Bool :=
  match s.seq with
  | .idle => !s.waitReq
  | .waiting job => s.waitReq && decide (s.jobOk job)

/-- The structural invariant: admissible parameters, `N * 8` shadow registers, text, chain and wait port as above, `CLK`
and `LATCH` at rest (rule R27). -/
abbrev State.Inv (s : State) : Prop :=
  paramsWf s.par ∧ s.shadow.length = 8 * s.par.devices ∧ s.textOk ∧ s.chainOk ∧ s.waitOk = true ∧
  s.clkPin = .idle ∧ s.latchPin = .inactive

/-- The shadow invariant (rule R21): every shadow register holds the data byte of the last transaction since reset that
carried its digit's opcode to its device, or 0x00 if there was none. -/
def State.Mirror (s : State) : Prop :=
  ∀ d < s.par.devices, ∀ i < 8,
    s.shadowAt d i = (lastSent s.par.devices d (digitOp s.par.ops i) s.trace).getD 0x00

/-- `RSP` is valid exactly when the block has responded since reset, and then holds the last response (rule R86). -/
abbrev State.RspOk (s : State) : Prop :=
  if s.rspValid then lastResp s.trace = some s.rsp else lastResp s.trace = none

end Sys2Proof.Machine
end

