-- ==== Sys2Proof/Machine/Normalizer.lean ====
section
/-! DEFINITION. The host's software: the StringNormalizer (45_normalizer.md), the pseudo-instruction RENDERTEXT
(30_encoding.md rule R97) and the boot sequence (70_reset_and_hazards.md rule R294). No step uses them. -/

namespace Sys2Proof.Machine

/-- Pair every character with its decimal-point request, false where none is given (rule R230). -/
def withFlags : List Byte → List Bool → List Slot
  | [], _ => []
  | c :: cs, [] => { ch := c, dp := false } :: withFlags cs []
  | c :: cs, f :: fs => { ch := c, dp := f } :: withFlags cs fs

/-- `Put(c, false)`: none where the output is full (rule R238). -/
def putSlot (cap : Nat) (out : List Slot) (c : Byte) : Option (List Slot) :=
  if cap - 1 ≤ out.length then none else some (out ++ [{ ch := c, dp := false }])

/-- `MarkLast()`: set the flag of the last pair, if there is one (rules R234, R240). -/
def markLast : List Slot → List Slot
  | [] => []
  | [x] => [{ x with dp := true }]
  | x :: y :: rest => x :: markLast (y :: rest)

/-- What one input position does to the output: the new output, and whether the loop goes on (rules R232 to R240). -/
def normStep (h : HalfGlyphs) (cap : Nat) (out : List Slot) (x : Slot) : List Slot × Bool :=
  let pair (l r : Byte) : List Slot × Bool :=
    match putSlot cap out l with
    | none => (out, false)
    | some o => match putSlot cap o r with
      | none => (o, false)
      | some o' => (o', true)
  if x.ch = 0x57 ∨ x.ch = 0x77 then pair h.wL h.wR
  else if x.ch = 0x4D ∨ x.ch = 0x6D then pair h.mL h.mR
  else if x.ch = 0x3F then (markLast out, true)
  else if x.dp then (markLast out, true)
  else match putSlot cap out x.ch with
    | none => (out, false)
    | some o => (o, true)

/-- The single left-to-right pass (rule R231), stopping at the first refused emission (rule R238). -/
def normLoop (h : HalfGlyphs) (cap : Nat) : List Slot → List Slot → List Slot
  | [], out => out
  | x :: rest, out =>
    match normStep h cap out x with
    | (o, true) => normLoop h cap rest o
    | (o, false) => o

/-- `Normalize(text, flags, cap)` (rule R230). -/
def normalize (h : HalfGlyphs) (text : List Byte) (flags : List Bool) (cap : Nat) : List Slot :=
  normLoop h cap (withFlags text flags) []

/-- The half-glyph codes are admissible (rule R7): distinct, below 128, none of `W w M m ?`. -/
abbrev halfWf (h : HalfGlyphs) : Prop :=
  [h.wL, h.wR, h.mL, h.mR].Nodup ∧
  ∀ c ∈ [h.wL, h.wR, h.mL, h.mR], c.toNat < 128 ∧ c ∉ [0x57, 0x77, 0x4D, 0x6D, 0x3F]

/-- RENDERTEXT (rule R97): the commands the host issues. -/
def renderText (h : HalfGlyphs) (p : Params) (d : Nat) (text : List Byte) (flags : List Bool) (dur : Duration) :
    List Instr :=
  let out := normalize h text flags p.cap
  out.mapIdx (fun k sl => Instr.txtwr k sl.ch sl.dp) ++ [Instr.txtlen out.length, Instr.render d dur]

/-- The boot sequence of one device (rule R294). -/
def bootDevice (d limit level : Nat) : List Instr :=
  [Instr.init d, Instr.scanlim d limit, Instr.intens d level, Instr.shutdn d false]

/-- The move that makes the machine run an instruction: its word presented, or its frame sent to position `t`. -/
def moveOf (ops : WireOps) (t : Nat) (i : Instr) : HostMove :=
  match encode ops i with
  | .command w => .command w
  | .wire f => .wire t f

end Sys2Proof.Machine
end

