-- ==== Sys2Proof/Safety.lean ====
section
/-! DEFINITION. What counts as a safe run: the host's duties of 70_reset_and_hazards.md and the end of a run. -/

namespace Sys2Proof.Machine

/-- The host has loaded the text it is about to show (rule R304): every slot below `TLEN` holds a value. -/
def State.TextLoaded (s : State) : Prop := ∀ k < s.tlen.toNat, (s.textAt k).isSome

/-- The run is over (rule R306): nothing is left to do and the block is ready. -/
def State.Finished (s : State) : Prop := s.host = [] ∧ s.ready = true ∧ s.waitReq = false

/-- A move that keeps the host's contract: it disturbs no transaction (rules R296, R297). -/
def HostMove.Lawful : HostMove → Prop
  | .command _ => True
  | .ack => True
  | .reset => True
  | .commandThenReset _ _ => True
  | .ackThenReset _ => True
  | .wire _ _ => False
  | .strayPulse => False
  | .devicePowerUp _ => True

/-- The block is held in a wait that only the host can end (rule R301). -/
def State.Held (s : State) : Prop := ∃ job, s.seq = .waiting job

end Sys2Proof.Machine
end

