-- ==== Sys2Proof/Certificates/Slice0/Obligations.lean ====
section
/-! DEFINITION. The statements for the provers. Every statement about a command holds for every state and operands that meet
its hypotheses; the next state is written out, so a statement of a result is also the statement that the instruction
completes, and its frame. -/

open Sys2Proof Sys2Proof.Machine

/-! ## Encoding -/

/-- Words written out from the encodings of rules R82, R87 and R99 decode to the instructions they stand for. The 16-bit frames,
the rejected one among them, are read with the default opcode numbers, which are general knowledge: the model's PRESUMED
choice (log 4). -/
def Obligations.SpecWordsDecode : Prop :=
  decodeTableWord 32 0x10000000 = some .devcnt ∧
  decodeTableWord 32 0x21000001 = some (.shutdn 1 true) ∧
  decodeTableWord 32 0x30000800 = some (.scanlim 0 8) ∧
  decodeTableWord 32 0x60020201 = some (.setdigit 0 2 2 true) ∧
  decodeTableWord 32 0x71004800 = some (.setchar 1 0 0x48 false) ∧
  decodeTableWord 32 0xA0013201 = some (.txtwr 1 0x32 true) ∧
  decodeTableWord 32 0xC0030000 = some (.frame 0 3) ∧
  decodeTableWord 32 0xD0000320 = some (.render 0 800) ∧
  decodeTableWord 32 0xF1234567 = some .reservedF ∧
  decodeTableWord 16 0x0000 = some .wNoop ∧
  decodeTableWord 16 0x03ED = some (.wDigit2 0xED) ∧
  decodeTableWord 16 0x0F00 = some (.wDisplaytest 0x00) ∧
  decodeTableWord 16 0x0D00 = none

/-- Decoding an encoded well-formed instruction gives it back, operands and all, under every admissible opcode map. -/
def Obligations.DecodeEncodeRoundTrip : Prop :=
  ∀ (ops : WireOps) (i : Instr), opsWf ops → i.wf = true → decode ops (encode ops i) = .ok i

/-- A wire frame that decodes is the encoding of what it decodes to: no two frames have one reading. -/
def Obligations.DecodedFramesEncodeBack : Prop :=
  ∀ (ops : WireOps) (f : WireFrame) (i : Instr), decodeWire ops f = .ok i → encode ops i = .wire f

/-- Whatever decodes is well-formed, and every command word decodes. -/
def Obligations.DecodedInstructionsAreWellFormed : Prop :=
  (∀ (ops : WireOps) (c : Code) (i : Instr), decode ops c = .ok i → i.wf = true) ∧
  ∀ (ops : WireOps) (w : CommandWord), ∃ i, decode ops (.command w) = .ok i

/-- R83: two words that agree on the used bits of their format are the same command. -/
def Obligations.UnusedCommandBitsAreIgnored : Prop :=
  ∀ w w' : CommandWord,
    w &&& usedMask (cmdField w 28 4) = w' &&& usedMask (cmdField w 28 4) → decodeCommand w = decodeCommand w'

/-! ## The encoder -/

/-- R110: blank for codes of 128 and more, the table entry below. -/
def Obligations.EncodeIsTableOrBlank : Prop :=
  ∀ (p : Params) (c : Byte),
    (128 ≤ c.toNat → encodeChar p c = 0x00) ∧
    (c.toNat < 128 → encodeChar p c = romRead p (BitVec.ofNat 7 c.toNat))

/-- No glyph of an admissible table carries a decimal point (rule R113). -/
def Obligations.EncodedGlyphsHaveNoDecimalPoint : Prop :=
  ∀ (p : Params) (c : Byte), paramsWf p → (encodeChar p c).getLsbD 7 = false

/-- The sixteen hexadecimal glyphs are lit and pairwise different; `K` and `X` look like `H` (rules R114, R115, R121). -/
def Obligations.HexGlyphsAreLitAndDistinct : Prop :=
  ∀ p : Params, paramsWf p →
    (∀ v < 16, hexGlyph p v ≠ 0x00) ∧
    (∀ v < 16, ∀ w < 16, v ≠ w → hexGlyph p v ≠ hexGlyph p w) ∧
    encodeChar p 0x4B = encodeChar p 0x48 ∧ encodeChar p 0x58 = encodeChar p 0x48

/-! ## The serial bus and the chain -/

/-- R138: one shift moves every bit up by one and loses the top one; a device holds sixteen bits of the register; after the
bits of `N` frames in the order shifted, position `p` holds frame `p`, whatever the register held. -/
def Obligations.ShiftedVectorReplacesRegister : Prop :=
  (∀ s : State, 0 < s.par.devices → s.sr.length = 16 * s.par.devices →
    s.clkRise.sr = s.dataPin :: s.sr.dropLast) ∧
  (∀ (sr : List Bool) (p i : Nat), i < 16 → (frameAt sr p).getLsbD i = sr.getD (16 * p + i) false) ∧
  ∀ (frames : List WireFrame) (sr : List Bool) (p : Nat) (hp : p < frames.length),
    frameAt ((shiftOrder frames).foldl (shiftIn frames.length) sr) p = frames[p]

/-- On a latch pulse every device of the chain writes the register its frame selects, opcode 0 none, all at once; nothing else
of the machine but the trace changes (rule R139). That an opcode outside rule R99's set writes its register too is the
model's choice (log 14). -/
def Obligations.LatchCommitsEveryDevice : Prop :=
  ∀ s : State, ∃ t, runActions latchPulseActions s = .next t ∧
    (∀ p op, t.devAt p op =
      if p < s.par.devices ∧ op ≠ opNoop ∧ frameOp (frameAt s.sr p) = op then frameData (frameAt s.sr p)
      else s.devAt p op) ∧
    t = { s with latchPin := .inactive, dev := t.dev, trace := .latch :: s.trace }

/-- R141: one non-zero frame, at the target's position, and `N - 1` zero frames; `N` zero frames for opcode 0, data 0; no opcode
of an admissible map is the no-op's. -/
def Obligations.TransactionHasOneNonZeroFrame : Prop :=
  (∀ (n t : Nat) (op data : Byte), t < n → mkFrame op data ≠ 0 →
    (frameVector n t (mkFrame op data))[t]? = some (mkFrame op data) ∧
    (∀ p < n, p ≠ t → (frameVector n t (mkFrame op data))[p]? = some 0) ∧
    (frameVector n t (mkFrame op data)).length = n ∧
    (frameVector n t (mkFrame op data)).countP (fun f => decide (f ≠ 0)) = 1) ∧
  (∀ n t : Nat, frameVector n t (mkFrame 0x00 0x00) = List.replicate n 0) ∧
  ∀ (ops : WireOps) (op data : Byte), opsWf ops → op ∈ allOps ops → mkFrame op data ≠ 0

/-! ## Control commands -/

/-- R160: DEVCNT responds the device count and changes only the response port; bits 27:0 do not matter. -/
def Obligations.DevcntRespondsDeviceCount : Prop :=
  (∀ s : State, exec .devcnt s = .next { s with
    rsp := BitVec.ofNat 8 s.par.devices, rspValid := true
    trace := .resp (BitVec.ofNat 8 s.par.devices) :: s.trace }) ∧
  ∀ w : CommandWord, cmdField w 28 4 = 0x1 → decodeCommand w = .devcnt

/-- SHUTDN, SCANLIM and INTENS in range make one transaction to their device, with the opcode and data byte of rules R92 to R94,
and change nothing else: no shadow register, no port, no text (rules R161 to R163). -/
def Obligations.ControlCommandsMakeOneTransaction : Prop :=
  ∀ (s : State) (d : Nat), s.Inv → d < s.par.devices →
    (exec (.shutdn d true) s = .next (s.afterTransaction d s.par.ops.shutdown s.par.dataShutdownOn)) ∧
    (exec (.shutdn d false) s = .next (s.afterTransaction d s.par.ops.shutdown s.par.dataShutdownOff)) ∧
    (∀ limit, 1 ≤ limit → limit ≤ 8 →
      exec (.scanlim d limit) s = .next (s.afterTransaction d s.par.ops.scanLimit (BitVec.ofNat 8 (limit - 1)))) ∧
    (∀ level, level ≤ 15 →
      exec (.intens d level) s = .next (s.afterTransaction d s.par.ops.intensity (BitVec.ofNat 8 level)))

/-- INIT leaves display test, disables decoding and blanks the eight digits, in that order, and changes no other device and no
other register of its device; the chain and the pin `DATA` are as the last digit's transaction leaves them (rule R164). -/
def Obligations.InitPreparesDevice : Prop :=
  ∀ (s : State) (d : Nat), s.Inv → d < s.par.devices → ∃ t, exec (.init d) s = .next t ∧
    onlyDisplay s t ∧
    (∀ d' i', i' < 8 → t.shadowAt d' i' = if d' = d then 0x00 else s.shadowAt d' i') ∧
    t.devAt d s.par.ops.displayTest = s.par.dataTestOff ∧
    t.devAt d s.par.ops.decodeMode = s.par.dataNoDecode ∧
    (∀ i < 8, t.devAt d (digitOp s.par.ops i) = 0x00) ∧
    (∀ q op, (q ≠ d ∨ (op ≠ s.par.ops.displayTest ∧ op ≠ s.par.ops.decodeMode ∧
      ∀ i < 8, op ≠ digitOp s.par.ops i)) → t.devAt q op = s.devAt q op) ∧
    t.trace = (transactionEvents s.par.devices d s.par.ops.displayTest s.par.dataTestOff ++
      transactionEvents s.par.devices d s.par.ops.decodeMode s.par.dataNoDecode ++
      digitEvents s.par d ((List.range 8).map fun i => (i, 0x00))).reverse ++ s.trace ∧
    lastTransaction s t d (digitOp s.par.ops 7) 0x00

/-- Every command but RDSHADOW with an operand out of range changes nothing at all (rules R95, R165, R261). RDSHADOW is the one
exception: out of range it responds 0x00 (rule R184, stated by `RdshadowAlwaysResponds`). -/
def Obligations.OutOfRangeCommandsAreIgnored : Prop :=
  ∀ (s : State) (d : Nat),
    (s.par.devices ≤ d →
      (∀ on, exec (.shutdn d on) s = .next s) ∧ (∀ l, exec (.scanlim d l) s = .next s) ∧
      (∀ l, exec (.intens d l) s = .next s) ∧ exec (.clear d) s = .next s ∧ exec (.init d) s = .next s ∧
      (∀ pos val dp, exec (.setdigit d pos val dp) s = .next s) ∧
      (∀ pos ch dp, exec (.setchar d pos ch dp) s = .next s) ∧
      (∀ off, exec (.frame d off) s = .next s) ∧ (∀ dur, exec (.render d dur) s = .next s)) ∧
    (∀ limit, limit = 0 ∨ 8 < limit → exec (.scanlim d limit) s = .next s) ∧
    (∀ level, 15 < level → exec (.intens d level) s = .next s) ∧
    (∀ pos val ch dp, 7 < pos →
      exec (.setdigit d pos val dp) s = .next s ∧ exec (.setchar d pos ch dp) s = .next s) ∧
    (∀ pos val dp, 15 < val → exec (.setdigit d pos val dp) s = .next s) ∧
    (∀ idx ch dp, s.par.cap < idx + 2 → exec (.txtwr idx ch dp) s = .next s) ∧
    (∀ len, 1 ≤ s.par.cap → s.par.cap - 1 < len → exec (.txtlen len) s = .next s)

/-- The reserved command opcodes change nothing (rule R84), under every word that carries one. -/
def Obligations.ReservedCommandsChangeNothing : Prop :=
  (∀ s : State, exec .reserved0 s = .next s ∧ exec .reservedE s = .next s ∧ exec .reservedF s = .next s) ∧
  ∀ (w : CommandWord) (s : State), cmdField w 28 4 ∈ [0x0, 0xE, 0xF] → exec (decodeCommand w) s = .next s

/-! ## Digit commands -/

/-- CLEAR blanks the eight digits of its device, in ascending order, in the shadow bank and in the device, leaves the chain and
the pin `DATA` as the last digit's transaction does, and changes nothing else (rule R181). -/
def Obligations.ClearBlanksDevice : Prop :=
  ∀ (s : State) (d : Nat), s.Inv → d < s.par.devices → ∃ t, exec (.clear d) s = .next t ∧
    onlyDisplay s t ∧
    (∀ d' i', i' < 8 → t.shadowAt d' i' = if d' = d then 0x00 else s.shadowAt d' i') ∧
    (∀ i < 8, t.devAt d (digitOp s.par.ops i) = 0x00) ∧
    (∀ q op, (q ≠ d ∨ ∀ i < 8, op ≠ digitOp s.par.ops i) → t.devAt q op = s.devAt q op) ∧
    t.trace = (digitEvents s.par d ((List.range 8).map fun i => (i, 0x00))).reverse ++ s.trace ∧
    lastTransaction s t d (digitOp s.par.ops 7) 0x00

/-- SETDIGIT in range writes `{dp, g[6:0]}`, `g` the glyph of the hexadecimal digit's character, to the shadow register and, in
one transaction, to the digit register, and changes nothing else (rules R90, R91, R180, R182). -/
def Obligations.SetdigitWritesHexGlyph : Prop :=
  ∀ (s : State) (d pos val : Nat) (dp : Bool), s.Inv → d < s.par.devices → pos ≤ 7 → val ≤ 15 →
    let pat : Byte := BitVec.ofBool dp ++
      (encodeChar s.par (BitVec.ofNat 8 (if val ≤ 9 then 0x30 + val else 0x41 + (val - 10)))).extractLsb' 0 7
    ∃ t, exec (.setdigit d pos val dp) s = .next t ∧
      t = { s.afterTransaction d (digitOp s.par.ops pos) pat with shadow := t.shadow } ∧
      ∀ d' i', i' < 8 → t.shadowAt d' i' = if d' = d ∧ i' = pos then pat else s.shadowAt d' i'

/-- SETCHAR in range does the same with the glyph of any character code (rules R90, R180, R183). -/
def Obligations.SetcharWritesGlyph : Prop :=
  ∀ (s : State) (d pos : Nat) (ch : Byte) (dp : Bool), s.Inv → d < s.par.devices → pos ≤ 7 →
    let pat : Byte := BitVec.ofBool dp ++ (encodeChar s.par ch).extractLsb' 0 7
    ∃ t, exec (.setchar d pos ch dp) s = .next t ∧
      t = { s.afterTransaction d (digitOp s.par.ops pos) pat with shadow := t.shadow } ∧
      ∀ d' i', i' < 8 → t.shadowAt d' i' = if d' = d ∧ i' = pos then pat else s.shadowAt d' i'

/-- R184: RDSHADOW always responds, the shadow register in range and 0x00 out of range, and changes only the response port;
its operands are the fields `ADDR` and `A`. -/
def Obligations.RdshadowAlwaysResponds : Prop :=
  (∀ (s : State) (d pos : Nat),
    (d < s.par.devices → pos ≤ 7 → exec (.rdshadow d pos) s = .next { s with
      rsp := s.shadowAt d pos, rspValid := true, trace := .resp (s.shadowAt d pos) :: s.trace }) ∧
    (s.par.devices ≤ d ∨ 7 < pos → exec (.rdshadow d pos) s = .next { s with
      rsp := 0x00, rspValid := true, trace := .resp 0x00 :: s.trace })) ∧
  ∀ w : CommandWord, cmdField w 28 4 = 0x9 → decodeCommand w = .rdshadow (cmdField w 24 4) (cmdField w 16 8)

/-- Only CLEAR, SETDIGIT, SETCHAR, INIT, FRAME and RENDER write the shadow bank (rule R20). -/
def Obligations.OnlyDigitWritersChangeShadow : Prop :=
  ∀ (i : Instr) (s t : State), exec i s = .next t → t.shadow ≠ s.shadow →
    (∃ d, i = .clear d) ∨ (∃ d pos val dp, i = .setdigit d pos val dp) ∨ (∃ d pos ch dp, i = .setchar d pos ch dp) ∨
    (∃ d, i = .init d) ∨ (∃ d off, i = .frame d off) ∨ (∃ d dur, i = .render d dur)

/-! ## Text, frames and scrolls -/

/-- TXTWR stores one pair in a writable slot and changes no other slot and nothing else (rule R200). -/
def Obligations.TxtwrStoresOneSlot : Prop :=
  ∀ (s : State) (idx : Nat) (ch : Byte) (dp : Bool), idx + 2 ≤ s.par.cap →
    ∃ t, exec (.txtwr idx ch dp) s = .next t ∧ t = { s with tbuf := t.tbuf } ∧
      (∀ k, t.textAt k = if k = idx then some { ch := ch, dp := dp } else s.textAt k) ∧
      (Mem.wf s.tbuf → Mem.wf t.tbuf)

/-- TXTLEN sets the length, every value up to `CAP - 1` unchanged, and nothing else (rule R201). -/
def Obligations.TxtlenSetsLength : Prop :=
  ∀ (s : State) (len : Nat), s.Inv → len ≤ s.par.cap - 1 →
    ∃ t, exec (.txtlen len) s = .next t ∧ t = { s with tlen := t.tlen } ∧ t.tlen.toNat = len

/-- FRAME shows the window at its offset, with no wait (rules R203 to R205). -/
def Obligations.FrameShowsWindow : Prop :=
  ∀ (s : State) (d off : Nat), s.Inv → d < s.par.devices → s.windowLoaded off →
    ∃ t, exec (.frame d off) s = .next t ∧ frameShown s t d off

/-- RENDER of a text of at most eight characters shows one frame at offset 0 and asks for one wait of the whole duration
(rule R210). -/
def Obligations.RenderShowsShortTextOnce : Prop :=
  ∀ (s : State) (d : Nat) (dur : Duration), s.Inv → d < s.par.devices → s.windowLoaded 0 → s.tlen.toNat ≤ 8 →
    ∃ t, frameShown s t d 0 ∧
      exec (.render d dur) s = .next { t with
        waitReq := true, waitMs := dur, seq := .waiting { d := d, k := 1, frames := 1, ms := dur }
        trace := .waitReq dur :: t.trace }

/-- RENDER of a longer text shows the first of `L - 8 + 1 + PAD` frames and asks for a wait of the duration computed once
(rules R206, R207, R209). -/
def Obligations.RenderStartsScroll : Prop :=
  ∀ (s : State) (d : Nat) (dur : Duration), s.Inv → d < s.par.devices → s.windowLoaded 0 → 8 < s.tlen.toNat →
    let frames := s.tlen.toNat - 8 + 1 + s.par.pad
    let ms := match s.par.frameMs with
      | .divEight => BitVec.ofNat 24 (dur.toNat / 8)
      | .unknown => Config.frameMs dur s.tlen.toNat frames
    ∃ t, frameShown s t d 0 ∧
      exec (.render d dur) s = .next { t with
        waitReq := true, waitMs := ms, seq := .waiting { d := d, k := 1, frames := frames, ms := ms }
        trace := .waitReq ms :: t.trace }

/-- An acknowledged wait: the request is withdrawn; the next frame is shown and followed by its wait while frames are left,
without a wait after the last frame where `SUSPEND_AFTER_LAST` is false; else RENDER is over (rules R206, R208). That
`WAIT_MS` keeps its value when no wait is requested is the model's choice (log 7). -/
def Obligations.AcknowledgeContinuesRender : Prop :=
  ∀ (s : State) (job : ScrollJob) (rest : List HostMove), s.Inv → s.seq = .waiting job → s.host = .ack :: rest →
    (job.k = job.frames → step s = .next { s with host := rest, waitReq := false, seq := .idle }) ∧
    (job.k < job.frames → s.windowLoaded job.k →
      ∃ t, frameShown { s with host := rest, waitReq := false, seq := .idle } t job.d job.k ∧
        step s = .next (if job.k + 1 < job.frames ∨ s.par.suspendAfterLast = true then
          { t with waitReq := true, waitMs := job.ms, seq := .waiting { job with k := job.k + 1 }
                   trace := .waitReq job.ms :: t.trace }
          else t))

/-- A RENDER whose waits are all acknowledged ends: the windows at offsets 0 to `F - 1` shown in this order, each by its eight
transactions and followed by its wait (but the last of a scroll where `SUSPEND_AFTER_LAST` is false), nothing else in the trace;
the last window left in the shadow bank and in the device, the text untouched, the block ready (rules R206, R207, R209, R210, R216,
R301). -/
def Obligations.AcknowledgedRenderShowsEveryFrame : Prop :=
  ∀ (s : State) (d : Nat) (dur : Duration) (w : CommandWord) (rest : List HostMove),
    s.Inv → s.seq = .idle → s.TextLoaded → d < s.par.devices → decodeCommand w = .render d dur →
    let frames := renderFrames s.par s.tlen.toNat
    let ms := if s.tlen.toNat ≤ 8 then dur else match s.par.frameMs with
      | .divEight => BitVec.ofNat 24 (dur.toNat / 8)
      | .unknown => Config.frameMs dur s.tlen.toNat frames
    s.host = .command w :: (List.replicate frames .ack ++ rest) →
    ∃ t, Host.Core.run core (frames + 1) s = .next t ∧
      t.seq = .idle ∧ t.waitReq = false ∧ t.host = rest ∧ t.tbuf = s.tbuf ∧ t.tlen = s.tlen ∧
      t.trace = ((List.range frames).flatMap (s.renderFrameEvents d frames ms)).reverse ++ s.trace ∧
      transactions t.trace = transactions s.trace + 8 * frames ∧
      waitRequests t.trace = waitRequests s.trace +
        (if s.tlen.toNat ≤ 8 ∨ s.par.suspendAfterLast = true then frames else frames - 1) ∧
      (∀ j < 8, t.shadowAt d (windowPos s.par j) = s.shownAt (frames - 1) j) ∧
      ∀ j < 8, t.devAt d (digitOp s.par.ops (windowPos s.par j)) = s.shownAt (frames - 1) j

/-- A frame that reads a slot never written since reset is refused, with the first such slot's number (rule R214). -/
def Obligations.UnwrittenSlotIsRefused : Prop :=
  ∀ (s : State) (d off j : Nat) (dur : Duration), d < s.par.devices → j < 8 → off + j < s.tlen.toNat →
    s.textAt (off + j) = none → (∀ k < j, (s.textAt (off + k)).isSome = true) →
    exec (.frame d off) s = .refused (.unwrittenTextSlot (off + j)) ∧
    (off = 0 → exec (.render d dur) s = .refused (.unwrittenTextSlot j))

/-- No command but TXTWR and TXTLEN, and no wire frame, writes the text buffer or its length (rules R202, R206). -/
def Obligations.OnlyTextCommandsChangeText : Prop :=
  ∀ (i : Instr) (s t : State), exec i s = .next t → t.tbuf ≠ s.tbuf ∨ t.tlen ≠ s.tlen →
    (∃ idx ch dp, i = .txtwr idx ch dp) ∨ ∃ len, i = .txtlen len

/-! ## Wire frames -/

/-- A device that executes a wire frame writes the data byte to the register its opcode selects and changes no other register
and nothing else; the no-op frame changes nothing (rule R139). That the device is the one at `State.pos` is the model's choice
(log 12). -/
def Obligations.WireFramesWriteOneRegister : Prop :=
  ∀ (s : State) (data : Byte),
    exec .wNoop s = .next s ∧
    ∀ (i : Instr) (op : Byte), (i, op) ∈ wireWrites s.par.ops data →
      ∃ t, exec i s = .next t ∧ t = { s with dev := t.dev } ∧
        ∀ q op', t.devAt q op' = if q = s.pos ∧ op' = op then data else s.devAt q op'

/-- A transaction of another agent changes the chain and nothing of the block: not the shadow bank, not the trace
(rules R66, R299). That such a transaction is a move of the model is its choice (log 12). -/
def Obligations.ForeignTransactionBypassesShadow : Prop :=
  ∀ (s t : State) (q : Nat) (f : WireFrame) (rest : List HostMove), s.host = .wire q f :: rest → step s = .next t →
    t = { s with host := rest, pos := t.pos, sr := t.sr, dev := t.dev } ∧
    ∀ p op, p ≠ q → t.devAt p op = s.devAt p op

/-- A device that powers up or resets on its own takes new free register values and a new free frame in its part of the chain;
the block and the other devices do not notice (rule R299). That the registers are free then is U8's 'any value'; that this
happens between two steps is the model's choice (log 19). -/
def Obligations.DevicePowerUpBypassesBlock : Prop :=
  ∀ (s : State) (p : Nat) (rest : List HostMove), s.Inv → p < s.par.devices → s.host = .devicePowerUp p :: rest →
    ∃ t, step s = .next t ∧
      t = { s with host := rest, sr := t.sr, dev := t.dev, powerUps := t.powerUps } ∧
      (∀ op, t.devAt p op = Config.powerUpReg (s.powerUpCount p + 1) p op) ∧
      (∀ q op, q ≠ p → t.devAt q op = s.devAt q op) ∧
      (∀ q < s.par.devices, frameAt t.sr q =
        if q = p then Config.powerUpFrame (s.powerUpCount p + 1) p else frameAt s.sr q)

/-- Whatever the device held, CLEAR, INIT, FRAME and RENDER leave its eight digits equal to the shadow bank, and SETDIGIT and
SETCHAR the digit they write (rule R299). -/
def Obligations.RefreshRestoresAgreement : Prop :=
  ∀ (s t : State) (d : Nat), s.Inv → d < s.par.devices →
    ((exec (.clear d) s = .next t ∨ exec (.init d) s = .next t ∨ (∃ off, exec (.frame d off) s = .next t) ∨
      ∃ dur, exec (.render d dur) s = .next t) → ∀ i < 8, t.agreesAt d i) ∧
    ∀ pos ≤ 7, ((∃ val dp, val ≤ 15 ∧ exec (.setdigit d pos val dp) s = .next t) ∨
      ∃ ch dp, exec (.setchar d pos ch dp) s = .next t) → t.agreesAt d pos

/-! ## The output trace -/

/-- The coarse view loses nothing: put out in full again it is the output trace. A transaction adds one commit of its frame
vector to it, whatever stands before (rules R33, R140). -/
def Obligations.CoarseTraceLosesNothing : Prop :=
  (∀ s : State, s.coarseTrace.flatMap CoarseEvent.expand = s.outputTrace) ∧
  ∀ (s : State) (t : Nat) (op data : Byte), t < s.par.devices →
    (s.afterTransaction t op data).coarseTrace =
      s.coarseTrace ++ [.commit (frameVector s.par.devices t (mkFrame op data))]

/-! ## Steps, reset and invariants -/

/-- A command word at the ready block: the step is the decoded instruction's meaning with the word consumed. At a busy block,
where the host may present none, the step is refused, as U4 asks of a model that has such a move (rules R85, R300). -/
def Obligations.StepRunsPresentedCommand : Prop :=
  ∀ (s : State) (w : CommandWord) (rest : List HostMove), s.host = .command w :: rest →
    (s.seq = .idle → ∀ ops i, decode ops (.command w) = .ok i → step s = exec i { s with host := rest }) ∧
    (∀ job, s.seq = .waiting job → step s = .refused .commandWhileBusy)

/-- A wire frame on the chain: the step is the decoded frame's meaning at the device it is for, the vector shifted in; that
another agent sends it is the model's choice (log 12). -/
def Obligations.StepRunsWireFrame : Prop :=
  ∀ (s : State) (q : Nat) (f : WireFrame) (rest : List HostMove) (i : Instr), 0 < s.par.devices →
    q < s.par.devices → s.host = .wire q f :: rest → decode s.par.ops (.wire f) = .ok i →
    step s = exec i { s with
      host := rest, pos := q, sr := (frameVector s.par.devices q f).flatMap frameBits }

/-- A held block stays as it is until the host acknowledges or resets: without a move a step changes nothing, and a command, or a
command with a reset inside, is refused; an acknowledgement without a request has no effect (rules R208, R273, R300, R301). That
a step without a move changes nothing is the model's choice (log 8). -/
def Obligations.HeldBlockWaitsForHost : Prop :=
  ∀ s : State,
    (s.host = [] → step s = .next s) ∧
    (∀ job w n rest, s.seq = .waiting job → s.host = .command w :: rest ∨ s.host = .commandThenReset w n :: rest →
      step s = .refused .commandWhileBusy) ∧
    (∀ rest, s.seq = .idle → s.host = .ack :: rest → step s = .next { s with host := rest })

/-- R290: reset puts every piece of the block's state at its reset value and keeps `N`, the glyph table and the chain. -/
def Obligations.ResetRestoresResetValues : Prop :=
  ∀ (s : State) (rest : List HostMove), s.host = .reset :: rest → ∃ t, step s = .next t ∧
    t.par = s.par ∧ (∀ d i, t.shadowAt d i = 0x00) ∧ t.shadow.length = 8 * s.par.devices ∧ t.tlen = 0 ∧
    (∀ k, t.textAt k = none) ∧ t.seq = .idle ∧ t.ready = true ∧ t.waitReq = false ∧ t.rspValid = false ∧
    t.dataPin = false ∧ t.clkPin = .idle ∧ t.latchPin = .inactive ∧
    t.trace = [] ∧ t.outputTrace = s.outputTrace ∧ t.sr = s.sr ∧ t.dev = s.dev ∧ t.powerUps = s.powerUps ∧
    t.host = rest

/-- A reset inside a command, or inside what an acknowledgement sets going, after any number of its assignments and `Emit`s: the
rest is abandoned, the block is at its reset values, the chain and the events are as the part that was done left them
(rule R293). That `Respond` and the request of a wait are not cut is the model's choice (log 10). -/
def Obligations.ResetInsideCommandAbandonsIt : Prop :=
  ∀ (s : State) (n : Nat) (rest : List HostMove), s.TextLoaded →
    let s1 : State := { s with host := rest }
    let abandoned := fun (acts : List Action) (t : State) =>
      let u := (acts.take n).foldl State.act s1
      blockAtReset s t ∧ t.sr = u.sr ∧ t.dev = u.dev ∧ t.powerUps = s.powerUps ∧ t.outputTrace = u.outputTrace ∧
        t.host = rest
    (∀ w, s.seq = .idle → s.host = .commandThenReset w n :: rest →
      ∃ t, step s = .next t ∧ abandoned (commandActions (decodeCommand w) s1) t) ∧
    (∀ job, s.seq = .waiting job → s.host = .ackThenReset n :: rest →
      ∃ t, step s = .next t ∧ abandoned (resumeActions job s1) t) ∧
    (s.seq = .idle → s.host = .ackThenReset n :: rest → ∃ t, step s = .next t ∧ abandoned [] t)

/-- A reset inside a transaction, before its latch pulse: the bits clocked so far are in the chain, those whose pulse has ended in
the trace, no device commits, and the block is at its reset values. So for a SHUTDN cut by a reset, and for the first
transaction after an acknowledgement (rule R293). A bit takes four assignments, its clock edge is the second; after an
acknowledgement the withdrawn request and the shadow register come first. -/
def Obligations.ResetInsideTransactionCommitsNothing : Prop :=
  ∀ (s : State) (n : Nat) (rest : List HostMove), s.Inv → s.TextLoaded →
    let cut := fun (t : State) (q : Nat) (op data : Byte) (edges ended : Nat) =>
      let bits := shiftOrder (frameVector s.par.devices q (mkFrame op data))
      blockAtReset s t ∧ t.dev = s.dev ∧ t.powerUps = s.powerUps ∧ t.host = rest ∧
        t.sr = (bits.take edges).foldl (shiftIn s.par.devices) s.sr ∧
        t.outputTrace = s.outputTrace ++ (bits.take ended).map .bit
    (∀ q op data, q < s.par.devices → n ≤ 64 * s.par.devices → s.host = rest →
      ∃ t, runThenReset n (transmitActions s.par q op data) s = .next t ∧ cut t q op data ((n + 2) / 4) (n / 4)) ∧
    (∀ w d on, s.seq = .idle → s.host = .commandThenReset w n :: rest → decodeCommand w = .shutdn d on →
      d < s.par.devices → n ≤ 64 * s.par.devices →
      ∃ t, step s = .next t ∧ cut t d s.par.ops.shutdown
        (if on then s.par.dataShutdownOn else s.par.dataShutdownOff) ((n + 2) / 4) (n / 4)) ∧
    (∀ job, s.seq = .waiting job → s.host = .ackThenReset n :: rest → job.k < job.frames →
      n ≤ 64 * s.par.devices + 2 →
      ∃ t, step s = .next t ∧ cut t job.d (digitOp s.par.ops (windowPos s.par 0)) (s.shownAt job.k 0)
        (n / 4) ((n - 2) / 4))

/-- The structural invariant holds after reset, for all admissible parameters and for the model's own. -/
def Obligations.ResetMeetsInvariant : Prop :=
  (∀ p, paramsWf p → (State.resetWith p).Inv) ∧ State.reset.Inv

/-- Every step keeps the structural invariant. -/
def Obligations.StepKeepsInvariant : Prop :=
  ∀ s t : State, s.Inv → step s = .next t → t.Inv

/-- The shadow invariant holds after reset. -/
def Obligations.ResetMirrorsWire : Prop := ∀ p, (State.resetWith p).Mirror

/-- R21: every step keeps the shadow invariant, so it holds between any two commands of every run from reset, whatever the
environment does. -/
def Obligations.ShadowBankMirrorsWire : Prop :=
  (∀ s t : State, s.Inv → s.Mirror → step s = .next t → t.Mirror) ∧
  ∀ (p : Params) (moves : List HostMove) (k : Nat) (t : State), paramsWf p →
    Host.Core.run core k { State.resetWith p with host := moves } = .next t →
    ∀ d < p.devices, ∀ i < 8,
      t.shadowAt d i = (lastSent p.devices d (digitOp p.ops i) t.trace).getD 0x00

/-- Every step keeps the response port at the last response since reset (rule R86). -/
def Obligations.StepKeepsResponsePort : Prop :=
  ∀ s t : State, s.RspOk → step s = .next t → t.RspOk

/-- No step writes the parameters: the device count and the glyph table are the same for ever (rules R23, R119). -/
def Obligations.StepKeepsParameters : Prop :=
  ∀ s t : State, step s = .next t → t.par = s.par

/-- The output trace only grows: no step takes back an event (rules R33, R293). -/
def Obligations.StepOnlyAppendsToTrace : Prop :=
  ∀ s t : State, step s = .next t → ∃ es, t.outputTrace = s.outputTrace ++ es

/-- Every instruction completes from every state whose text is loaded, whatever its operands (rules R260, R261, R304). -/
def Obligations.EveryInstructionCompletes : Prop :=
  ∀ (i : Instr) (s : State), s.TextLoaded → ∃ t, exec i s = .next t

/-- The number of transactions a command makes (rule R303), RENDER counted up to its first wait; an ignored command none. -/
def Obligations.CommandsMakeTheirTransactions : Prop :=
  ∀ (s t : State) (i : Instr), exec i s = .next t →
    transactions t.trace = transactions s.trace + (match i with
      | .shutdn d _ => if d < s.par.devices then 1 else 0
      | .scanlim d limit => if d < s.par.devices ∧ 1 ≤ limit ∧ limit ≤ 8 then 1 else 0
      | .intens d level => if d < s.par.devices ∧ level ≤ 15 then 1 else 0
      | .setdigit d pos val _ => if d < s.par.devices ∧ pos ≤ 7 ∧ val ≤ 15 then 1 else 0
      | .setchar d pos _ _ => if d < s.par.devices ∧ pos ≤ 7 then 1 else 0
      | .clear d => if d < s.par.devices then 8 else 0
      | .frame d _ => if d < s.par.devices then 8 else 0
      | .render d _ => if d < s.par.devices then 8 else 0
      | .init d => if d < s.par.devices then 10 else 0
      | _ => 0)

/-! ## The host's normalizer -/

/-- A normalized text leaves the terminator's slot free (rules R230, R238). -/
def Obligations.NormalizedTextFitsCapacity : Prop :=
  ∀ (h : HalfGlyphs) (text : List Byte) (flags : List Bool) (cap : Nat),
    (normalize h text flags cap).length ≤ cap - 1

/-- R242: normalizing a normalized text again, with its own flags and no smaller a capacity, gives it back exactly when no flag
of it is set. -/
def Obligations.NormalizeIsFixedPointIffNoFlag : Prop :=
  ∀ (h : HalfGlyphs) (text : List Byte) (flags : List Bool) (cap cap' : Nat), halfWf h → cap ≤ cap' →
    let out := normalize h text flags cap
    normalize h (out.map (·.ch)) (out.map (·.dp)) cap' = out ↔ ∀ x ∈ out, x.dp = false
end

