-- ==== Sys2Proof/Laws/State.lean ====
section
/-! SUPPORT. One lemma per field per update of State, so that no proof unfolds a record update. -/

namespace Sys2Proof.Machine

section
variable (s : State)

@[simp] theorem State.setShadow_par (d i : Nat) (v : Byte) : (s.setShadow d i v).par = s.par := rfl
@[simp] theorem State.setShadow_shadow (d i : Nat) (v : Byte) : (s.setShadow d i v).shadow = s.shadow.set (8 * d + i) v := rfl
@[simp] theorem State.setShadow_tlen (d i : Nat) (v : Byte) : (s.setShadow d i v).tlen = s.tlen := rfl
@[simp] theorem State.setShadow_tbuf (d i : Nat) (v : Byte) : (s.setShadow d i v).tbuf = s.tbuf := rfl
@[simp] theorem State.setShadow_seq (d i : Nat) (v : Byte) : (s.setShadow d i v).seq = s.seq := rfl
@[simp] theorem State.setShadow_pos (d i : Nat) (v : Byte) : (s.setShadow d i v).pos = s.pos := rfl
@[simp] theorem State.setShadow_dataPin (d i : Nat) (v : Byte) : (s.setShadow d i v).dataPin = s.dataPin := rfl
@[simp] theorem State.setShadow_clkPin (d i : Nat) (v : Byte) : (s.setShadow d i v).clkPin = s.clkPin := rfl
@[simp] theorem State.setShadow_latchPin (d i : Nat) (v : Byte) : (s.setShadow d i v).latchPin = s.latchPin := rfl
@[simp] theorem State.setShadow_waitReq (d i : Nat) (v : Byte) : (s.setShadow d i v).waitReq = s.waitReq := rfl
@[simp] theorem State.setShadow_waitMs (d i : Nat) (v : Byte) : (s.setShadow d i v).waitMs = s.waitMs := rfl
@[simp] theorem State.setShadow_rsp (d i : Nat) (v : Byte) : (s.setShadow d i v).rsp = s.rsp := rfl
@[simp] theorem State.setShadow_rspValid (d i : Nat) (v : Byte) : (s.setShadow d i v).rspValid = s.rspValid := rfl
@[simp] theorem State.setShadow_trace (d i : Nat) (v : Byte) : (s.setShadow d i v).trace = s.trace := rfl
@[simp] theorem State.setShadow_earlier (d i : Nat) (v : Byte) : (s.setShadow d i v).earlier = s.earlier := rfl
@[simp] theorem State.setShadow_sr (d i : Nat) (v : Byte) : (s.setShadow d i v).sr = s.sr := rfl
@[simp] theorem State.setShadow_dev (d i : Nat) (v : Byte) : (s.setShadow d i v).dev = s.dev := rfl
@[simp] theorem State.setShadow_powerUps (d i : Nat) (v : Byte) : (s.setShadow d i v).powerUps = s.powerUps := rfl
@[simp] theorem State.setShadow_host (d i : Nat) (v : Byte) : (s.setShadow d i v).host = s.host := rfl

@[simp] theorem State.setText_par (k : Nat) (sl : Slot) : (s.setText k sl).par = s.par := rfl
@[simp] theorem State.setText_shadow (k : Nat) (sl : Slot) : (s.setText k sl).shadow = s.shadow := rfl
@[simp] theorem State.setText_tlen (k : Nat) (sl : Slot) : (s.setText k sl).tlen = s.tlen := rfl
@[simp] theorem State.setText_tbuf (k : Nat) (sl : Slot) : (s.setText k sl).tbuf = Mem.write s.tbuf k sl := rfl
@[simp] theorem State.setText_seq (k : Nat) (sl : Slot) : (s.setText k sl).seq = s.seq := rfl
@[simp] theorem State.setText_pos (k : Nat) (sl : Slot) : (s.setText k sl).pos = s.pos := rfl
@[simp] theorem State.setText_dataPin (k : Nat) (sl : Slot) : (s.setText k sl).dataPin = s.dataPin := rfl
@[simp] theorem State.setText_clkPin (k : Nat) (sl : Slot) : (s.setText k sl).clkPin = s.clkPin := rfl
@[simp] theorem State.setText_latchPin (k : Nat) (sl : Slot) : (s.setText k sl).latchPin = s.latchPin := rfl
@[simp] theorem State.setText_waitReq (k : Nat) (sl : Slot) : (s.setText k sl).waitReq = s.waitReq := rfl
@[simp] theorem State.setText_waitMs (k : Nat) (sl : Slot) : (s.setText k sl).waitMs = s.waitMs := rfl
@[simp] theorem State.setText_rsp (k : Nat) (sl : Slot) : (s.setText k sl).rsp = s.rsp := rfl
@[simp] theorem State.setText_rspValid (k : Nat) (sl : Slot) : (s.setText k sl).rspValid = s.rspValid := rfl
@[simp] theorem State.setText_trace (k : Nat) (sl : Slot) : (s.setText k sl).trace = s.trace := rfl
@[simp] theorem State.setText_earlier (k : Nat) (sl : Slot) : (s.setText k sl).earlier = s.earlier := rfl
@[simp] theorem State.setText_sr (k : Nat) (sl : Slot) : (s.setText k sl).sr = s.sr := rfl
@[simp] theorem State.setText_dev (k : Nat) (sl : Slot) : (s.setText k sl).dev = s.dev := rfl
@[simp] theorem State.setText_powerUps (k : Nat) (sl : Slot) : (s.setText k sl).powerUps = s.powerUps := rfl
@[simp] theorem State.setText_host (k : Nat) (sl : Slot) : (s.setText k sl).host = s.host := rfl

@[simp] theorem State.setLen_par (v : Byte) : (s.setLen v).par = s.par := rfl
@[simp] theorem State.setLen_shadow (v : Byte) : (s.setLen v).shadow = s.shadow := rfl
@[simp] theorem State.setLen_tlen (v : Byte) : (s.setLen v).tlen = v := rfl
@[simp] theorem State.setLen_tbuf (v : Byte) : (s.setLen v).tbuf = s.tbuf := rfl
@[simp] theorem State.setLen_seq (v : Byte) : (s.setLen v).seq = s.seq := rfl
@[simp] theorem State.setLen_pos (v : Byte) : (s.setLen v).pos = s.pos := rfl
@[simp] theorem State.setLen_dataPin (v : Byte) : (s.setLen v).dataPin = s.dataPin := rfl
@[simp] theorem State.setLen_clkPin (v : Byte) : (s.setLen v).clkPin = s.clkPin := rfl
@[simp] theorem State.setLen_latchPin (v : Byte) : (s.setLen v).latchPin = s.latchPin := rfl
@[simp] theorem State.setLen_waitReq (v : Byte) : (s.setLen v).waitReq = s.waitReq := rfl
@[simp] theorem State.setLen_waitMs (v : Byte) : (s.setLen v).waitMs = s.waitMs := rfl
@[simp] theorem State.setLen_rsp (v : Byte) : (s.setLen v).rsp = s.rsp := rfl
@[simp] theorem State.setLen_rspValid (v : Byte) : (s.setLen v).rspValid = s.rspValid := rfl
@[simp] theorem State.setLen_trace (v : Byte) : (s.setLen v).trace = s.trace := rfl
@[simp] theorem State.setLen_earlier (v : Byte) : (s.setLen v).earlier = s.earlier := rfl
@[simp] theorem State.setLen_sr (v : Byte) : (s.setLen v).sr = s.sr := rfl
@[simp] theorem State.setLen_dev (v : Byte) : (s.setLen v).dev = s.dev := rfl
@[simp] theorem State.setLen_powerUps (v : Byte) : (s.setLen v).powerUps = s.powerUps := rfl
@[simp] theorem State.setLen_host (v : Byte) : (s.setLen v).host = s.host := rfl

@[simp] theorem State.emit_par (e : Event) : (s.emit e).par = s.par := rfl
@[simp] theorem State.emit_shadow (e : Event) : (s.emit e).shadow = s.shadow := rfl
@[simp] theorem State.emit_tlen (e : Event) : (s.emit e).tlen = s.tlen := rfl
@[simp] theorem State.emit_tbuf (e : Event) : (s.emit e).tbuf = s.tbuf := rfl
@[simp] theorem State.emit_seq (e : Event) : (s.emit e).seq = s.seq := rfl
@[simp] theorem State.emit_pos (e : Event) : (s.emit e).pos = s.pos := rfl
@[simp] theorem State.emit_dataPin (e : Event) : (s.emit e).dataPin = s.dataPin := rfl
@[simp] theorem State.emit_clkPin (e : Event) : (s.emit e).clkPin = s.clkPin := rfl
@[simp] theorem State.emit_latchPin (e : Event) : (s.emit e).latchPin = s.latchPin := rfl
@[simp] theorem State.emit_waitReq (e : Event) : (s.emit e).waitReq = s.waitReq := rfl
@[simp] theorem State.emit_waitMs (e : Event) : (s.emit e).waitMs = s.waitMs := rfl
@[simp] theorem State.emit_rsp (e : Event) : (s.emit e).rsp = s.rsp := rfl
@[simp] theorem State.emit_rspValid (e : Event) : (s.emit e).rspValid = s.rspValid := rfl
@[simp] theorem State.emit_trace (e : Event) : (s.emit e).trace = e :: s.trace := rfl
@[simp] theorem State.emit_earlier (e : Event) : (s.emit e).earlier = s.earlier := rfl
@[simp] theorem State.emit_sr (e : Event) : (s.emit e).sr = s.sr := rfl
@[simp] theorem State.emit_dev (e : Event) : (s.emit e).dev = s.dev := rfl
@[simp] theorem State.emit_powerUps (e : Event) : (s.emit e).powerUps = s.powerUps := rfl
@[simp] theorem State.emit_host (e : Event) : (s.emit e).host = s.host := rfl

@[simp] theorem State.respond_par (v : Byte) : (s.respond v).par = s.par := rfl
@[simp] theorem State.respond_shadow (v : Byte) : (s.respond v).shadow = s.shadow := rfl
@[simp] theorem State.respond_tlen (v : Byte) : (s.respond v).tlen = s.tlen := rfl
@[simp] theorem State.respond_tbuf (v : Byte) : (s.respond v).tbuf = s.tbuf := rfl
@[simp] theorem State.respond_seq (v : Byte) : (s.respond v).seq = s.seq := rfl
@[simp] theorem State.respond_pos (v : Byte) : (s.respond v).pos = s.pos := rfl
@[simp] theorem State.respond_dataPin (v : Byte) : (s.respond v).dataPin = s.dataPin := rfl
@[simp] theorem State.respond_clkPin (v : Byte) : (s.respond v).clkPin = s.clkPin := rfl
@[simp] theorem State.respond_latchPin (v : Byte) : (s.respond v).latchPin = s.latchPin := rfl
@[simp] theorem State.respond_waitReq (v : Byte) : (s.respond v).waitReq = s.waitReq := rfl
@[simp] theorem State.respond_waitMs (v : Byte) : (s.respond v).waitMs = s.waitMs := rfl
@[simp] theorem State.respond_rsp (v : Byte) : (s.respond v).rsp = v := rfl
@[simp] theorem State.respond_rspValid (v : Byte) : (s.respond v).rspValid = true := rfl
@[simp] theorem State.respond_trace (v : Byte) : (s.respond v).trace = .resp v :: s.trace := rfl
@[simp] theorem State.respond_earlier (v : Byte) : (s.respond v).earlier = s.earlier := rfl
@[simp] theorem State.respond_sr (v : Byte) : (s.respond v).sr = s.sr := rfl
@[simp] theorem State.respond_dev (v : Byte) : (s.respond v).dev = s.dev := rfl
@[simp] theorem State.respond_powerUps (v : Byte) : (s.respond v).powerUps = s.powerUps := rfl
@[simp] theorem State.respond_host (v : Byte) : (s.respond v).host = s.host := rfl

@[simp] theorem State.requestWait_par (ms : Duration) (job : ScrollJob) : (s.requestWait ms job).par = s.par := rfl
@[simp] theorem State.requestWait_shadow (ms : Duration) (job : ScrollJob) : (s.requestWait ms job).shadow = s.shadow := rfl
@[simp] theorem State.requestWait_tlen (ms : Duration) (job : ScrollJob) : (s.requestWait ms job).tlen = s.tlen := rfl
@[simp] theorem State.requestWait_tbuf (ms : Duration) (job : ScrollJob) : (s.requestWait ms job).tbuf = s.tbuf := rfl
@[simp] theorem State.requestWait_seq (ms : Duration) (job : ScrollJob) : (s.requestWait ms job).seq = .waiting job := rfl
@[simp] theorem State.requestWait_pos (ms : Duration) (job : ScrollJob) : (s.requestWait ms job).pos = s.pos := rfl
@[simp] theorem State.requestWait_dataPin (ms : Duration) (job : ScrollJob) : (s.requestWait ms job).dataPin = s.dataPin := rfl
@[simp] theorem State.requestWait_clkPin (ms : Duration) (job : ScrollJob) : (s.requestWait ms job).clkPin = s.clkPin := rfl
@[simp] theorem State.requestWait_latchPin (ms : Duration) (job : ScrollJob) : (s.requestWait ms job).latchPin = s.latchPin := rfl
@[simp] theorem State.requestWait_waitReq (ms : Duration) (job : ScrollJob) : (s.requestWait ms job).waitReq = true := rfl
@[simp] theorem State.requestWait_waitMs (ms : Duration) (job : ScrollJob) : (s.requestWait ms job).waitMs = ms := rfl
@[simp] theorem State.requestWait_rsp (ms : Duration) (job : ScrollJob) : (s.requestWait ms job).rsp = s.rsp := rfl
@[simp] theorem State.requestWait_rspValid (ms : Duration) (job : ScrollJob) : (s.requestWait ms job).rspValid = s.rspValid := rfl
@[simp] theorem State.requestWait_trace (ms : Duration) (job : ScrollJob) : (s.requestWait ms job).trace = .waitReq ms :: s.trace := rfl
@[simp] theorem State.requestWait_earlier (ms : Duration) (job : ScrollJob) : (s.requestWait ms job).earlier = s.earlier := rfl
@[simp] theorem State.requestWait_sr (ms : Duration) (job : ScrollJob) : (s.requestWait ms job).sr = s.sr := rfl
@[simp] theorem State.requestWait_dev (ms : Duration) (job : ScrollJob) : (s.requestWait ms job).dev = s.dev := rfl
@[simp] theorem State.requestWait_powerUps (ms : Duration) (job : ScrollJob) : (s.requestWait ms job).powerUps = s.powerUps := rfl
@[simp] theorem State.requestWait_host (ms : Duration) (job : ScrollJob) : (s.requestWait ms job).host = s.host := rfl

@[simp] theorem State.releaseWait_par : (s.releaseWait).par = s.par := rfl
@[simp] theorem State.releaseWait_shadow : (s.releaseWait).shadow = s.shadow := rfl
@[simp] theorem State.releaseWait_tlen : (s.releaseWait).tlen = s.tlen := rfl
@[simp] theorem State.releaseWait_tbuf : (s.releaseWait).tbuf = s.tbuf := rfl
@[simp] theorem State.releaseWait_seq : (s.releaseWait).seq = .idle := rfl
@[simp] theorem State.releaseWait_pos : (s.releaseWait).pos = s.pos := rfl
@[simp] theorem State.releaseWait_dataPin : (s.releaseWait).dataPin = s.dataPin := rfl
@[simp] theorem State.releaseWait_clkPin : (s.releaseWait).clkPin = s.clkPin := rfl
@[simp] theorem State.releaseWait_latchPin : (s.releaseWait).latchPin = s.latchPin := rfl
@[simp] theorem State.releaseWait_waitReq : (s.releaseWait).waitReq = false := rfl
@[simp] theorem State.releaseWait_waitMs : (s.releaseWait).waitMs = s.waitMs := rfl
@[simp] theorem State.releaseWait_rsp : (s.releaseWait).rsp = s.rsp := rfl
@[simp] theorem State.releaseWait_rspValid : (s.releaseWait).rspValid = s.rspValid := rfl
@[simp] theorem State.releaseWait_trace : (s.releaseWait).trace = s.trace := rfl
@[simp] theorem State.releaseWait_earlier : (s.releaseWait).earlier = s.earlier := rfl
@[simp] theorem State.releaseWait_sr : (s.releaseWait).sr = s.sr := rfl
@[simp] theorem State.releaseWait_dev : (s.releaseWait).dev = s.dev := rfl
@[simp] theorem State.releaseWait_powerUps : (s.releaseWait).powerUps = s.powerUps := rfl
@[simp] theorem State.releaseWait_host : (s.releaseWait).host = s.host := rfl

@[simp] theorem State.writeDevice_par (p : Nat) (op data : Byte) : (s.writeDevice p op data).par = s.par := rfl
@[simp] theorem State.writeDevice_shadow (p : Nat) (op data : Byte) : (s.writeDevice p op data).shadow = s.shadow := rfl
@[simp] theorem State.writeDevice_tlen (p : Nat) (op data : Byte) : (s.writeDevice p op data).tlen = s.tlen := rfl
@[simp] theorem State.writeDevice_tbuf (p : Nat) (op data : Byte) : (s.writeDevice p op data).tbuf = s.tbuf := rfl
@[simp] theorem State.writeDevice_seq (p : Nat) (op data : Byte) : (s.writeDevice p op data).seq = s.seq := rfl
@[simp] theorem State.writeDevice_pos (p : Nat) (op data : Byte) : (s.writeDevice p op data).pos = s.pos := rfl
@[simp] theorem State.writeDevice_dataPin (p : Nat) (op data : Byte) : (s.writeDevice p op data).dataPin = s.dataPin := rfl
@[simp] theorem State.writeDevice_clkPin (p : Nat) (op data : Byte) : (s.writeDevice p op data).clkPin = s.clkPin := rfl
@[simp] theorem State.writeDevice_latchPin (p : Nat) (op data : Byte) : (s.writeDevice p op data).latchPin = s.latchPin := rfl
@[simp] theorem State.writeDevice_waitReq (p : Nat) (op data : Byte) : (s.writeDevice p op data).waitReq = s.waitReq := rfl
@[simp] theorem State.writeDevice_waitMs (p : Nat) (op data : Byte) : (s.writeDevice p op data).waitMs = s.waitMs := rfl
@[simp] theorem State.writeDevice_rsp (p : Nat) (op data : Byte) : (s.writeDevice p op data).rsp = s.rsp := rfl
@[simp] theorem State.writeDevice_rspValid (p : Nat) (op data : Byte) : (s.writeDevice p op data).rspValid = s.rspValid := rfl
@[simp] theorem State.writeDevice_trace (p : Nat) (op data : Byte) : (s.writeDevice p op data).trace = s.trace := rfl
@[simp] theorem State.writeDevice_earlier (p : Nat) (op data : Byte) : (s.writeDevice p op data).earlier = s.earlier := rfl
@[simp] theorem State.writeDevice_sr (p : Nat) (op data : Byte) : (s.writeDevice p op data).sr = s.sr := rfl
@[simp] theorem State.writeDevice_dev (p : Nat) (op data : Byte) : (s.writeDevice p op data).dev = Mem.write s.dev (devKey p op) data := rfl
@[simp] theorem State.writeDevice_powerUps (p : Nat) (op data : Byte) : (s.writeDevice p op data).powerUps = s.powerUps := rfl
@[simp] theorem State.writeDevice_host (p : Nat) (op data : Byte) : (s.writeDevice p op data).host = s.host := rfl

@[simp] theorem State.driveData_par (b : Bool) : (s.driveData b).par = s.par := rfl
@[simp] theorem State.driveData_shadow (b : Bool) : (s.driveData b).shadow = s.shadow := rfl
@[simp] theorem State.driveData_tlen (b : Bool) : (s.driveData b).tlen = s.tlen := rfl
@[simp] theorem State.driveData_tbuf (b : Bool) : (s.driveData b).tbuf = s.tbuf := rfl
@[simp] theorem State.driveData_seq (b : Bool) : (s.driveData b).seq = s.seq := rfl
@[simp] theorem State.driveData_pos (b : Bool) : (s.driveData b).pos = s.pos := rfl
@[simp] theorem State.driveData_dataPin (b : Bool) : (s.driveData b).dataPin = b := rfl
@[simp] theorem State.driveData_clkPin (b : Bool) : (s.driveData b).clkPin = s.clkPin := rfl
@[simp] theorem State.driveData_latchPin (b : Bool) : (s.driveData b).latchPin = s.latchPin := rfl
@[simp] theorem State.driveData_waitReq (b : Bool) : (s.driveData b).waitReq = s.waitReq := rfl
@[simp] theorem State.driveData_waitMs (b : Bool) : (s.driveData b).waitMs = s.waitMs := rfl
@[simp] theorem State.driveData_rsp (b : Bool) : (s.driveData b).rsp = s.rsp := rfl
@[simp] theorem State.driveData_rspValid (b : Bool) : (s.driveData b).rspValid = s.rspValid := rfl
@[simp] theorem State.driveData_trace (b : Bool) : (s.driveData b).trace = s.trace := rfl
@[simp] theorem State.driveData_earlier (b : Bool) : (s.driveData b).earlier = s.earlier := rfl
@[simp] theorem State.driveData_sr (b : Bool) : (s.driveData b).sr = s.sr := rfl
@[simp] theorem State.driveData_dev (b : Bool) : (s.driveData b).dev = s.dev := rfl
@[simp] theorem State.driveData_powerUps (b : Bool) : (s.driveData b).powerUps = s.powerUps := rfl
@[simp] theorem State.driveData_host (b : Bool) : (s.driveData b).host = s.host := rfl

@[simp] theorem State.clkRise_par : (s.clkRise).par = s.par := rfl
@[simp] theorem State.clkRise_shadow : (s.clkRise).shadow = s.shadow := rfl
@[simp] theorem State.clkRise_tlen : (s.clkRise).tlen = s.tlen := rfl
@[simp] theorem State.clkRise_tbuf : (s.clkRise).tbuf = s.tbuf := rfl
@[simp] theorem State.clkRise_seq : (s.clkRise).seq = s.seq := rfl
@[simp] theorem State.clkRise_pos : (s.clkRise).pos = s.pos := rfl
@[simp] theorem State.clkRise_dataPin : (s.clkRise).dataPin = s.dataPin := rfl
@[simp] theorem State.clkRise_clkPin : (s.clkRise).clkPin = .pulsed := rfl
@[simp] theorem State.clkRise_latchPin : (s.clkRise).latchPin = s.latchPin := rfl
@[simp] theorem State.clkRise_waitReq : (s.clkRise).waitReq = s.waitReq := rfl
@[simp] theorem State.clkRise_waitMs : (s.clkRise).waitMs = s.waitMs := rfl
@[simp] theorem State.clkRise_rsp : (s.clkRise).rsp = s.rsp := rfl
@[simp] theorem State.clkRise_rspValid : (s.clkRise).rspValid = s.rspValid := rfl
@[simp] theorem State.clkRise_trace : (s.clkRise).trace = s.trace := rfl
@[simp] theorem State.clkRise_earlier : (s.clkRise).earlier = s.earlier := rfl
@[simp] theorem State.clkRise_sr : (s.clkRise).sr = shiftIn s.par.devices s.sr s.dataPin := rfl
@[simp] theorem State.clkRise_dev : (s.clkRise).dev = s.dev := rfl
@[simp] theorem State.clkRise_powerUps : (s.clkRise).powerUps = s.powerUps := rfl
@[simp] theorem State.clkRise_host : (s.clkRise).host = s.host := rfl

@[simp] theorem State.clkFall_par : (s.clkFall).par = s.par := rfl
@[simp] theorem State.clkFall_shadow : (s.clkFall).shadow = s.shadow := rfl
@[simp] theorem State.clkFall_tlen : (s.clkFall).tlen = s.tlen := rfl
@[simp] theorem State.clkFall_tbuf : (s.clkFall).tbuf = s.tbuf := rfl
@[simp] theorem State.clkFall_seq : (s.clkFall).seq = s.seq := rfl
@[simp] theorem State.clkFall_pos : (s.clkFall).pos = s.pos := rfl
@[simp] theorem State.clkFall_dataPin : (s.clkFall).dataPin = s.dataPin := rfl
@[simp] theorem State.clkFall_clkPin : (s.clkFall).clkPin = .idle := rfl
@[simp] theorem State.clkFall_latchPin : (s.clkFall).latchPin = s.latchPin := rfl
@[simp] theorem State.clkFall_waitReq : (s.clkFall).waitReq = s.waitReq := rfl
@[simp] theorem State.clkFall_waitMs : (s.clkFall).waitMs = s.waitMs := rfl
@[simp] theorem State.clkFall_rsp : (s.clkFall).rsp = s.rsp := rfl
@[simp] theorem State.clkFall_rspValid : (s.clkFall).rspValid = s.rspValid := rfl
@[simp] theorem State.clkFall_trace : (s.clkFall).trace = s.trace := rfl
@[simp] theorem State.clkFall_earlier : (s.clkFall).earlier = s.earlier := rfl
@[simp] theorem State.clkFall_sr : (s.clkFall).sr = s.sr := rfl
@[simp] theorem State.clkFall_dev : (s.clkFall).dev = s.dev := rfl
@[simp] theorem State.clkFall_powerUps : (s.clkFall).powerUps = s.powerUps := rfl
@[simp] theorem State.clkFall_host : (s.clkFall).host = s.host := rfl

@[simp] theorem State.latchRise_par : (s.latchRise).par = s.par := rfl
@[simp] theorem State.latchRise_shadow : (s.latchRise).shadow = s.shadow := rfl
@[simp] theorem State.latchRise_tlen : (s.latchRise).tlen = s.tlen := rfl
@[simp] theorem State.latchRise_tbuf : (s.latchRise).tbuf = s.tbuf := rfl
@[simp] theorem State.latchRise_seq : (s.latchRise).seq = s.seq := rfl
@[simp] theorem State.latchRise_pos : (s.latchRise).pos = s.pos := rfl
@[simp] theorem State.latchRise_dataPin : (s.latchRise).dataPin = s.dataPin := rfl
@[simp] theorem State.latchRise_clkPin : (s.latchRise).clkPin = s.clkPin := rfl
@[simp] theorem State.latchRise_latchPin : (s.latchRise).latchPin = .active := rfl
@[simp] theorem State.latchRise_waitReq : (s.latchRise).waitReq = s.waitReq := rfl
@[simp] theorem State.latchRise_waitMs : (s.latchRise).waitMs = s.waitMs := rfl
@[simp] theorem State.latchRise_rsp : (s.latchRise).rsp = s.rsp := rfl
@[simp] theorem State.latchRise_rspValid : (s.latchRise).rspValid = s.rspValid := rfl
@[simp] theorem State.latchRise_trace : (s.latchRise).trace = s.trace := rfl
@[simp] theorem State.latchRise_earlier : (s.latchRise).earlier = s.earlier := rfl
@[simp] theorem State.latchRise_sr : (s.latchRise).sr = s.sr := rfl
@[simp] theorem State.latchRise_dev : (s.latchRise).dev = commitAll s.par.devices s.sr s.dev := rfl
@[simp] theorem State.latchRise_powerUps : (s.latchRise).powerUps = s.powerUps := rfl
@[simp] theorem State.latchRise_host : (s.latchRise).host = s.host := rfl

@[simp] theorem State.latchFall_par : (s.latchFall).par = s.par := rfl
@[simp] theorem State.latchFall_shadow : (s.latchFall).shadow = s.shadow := rfl
@[simp] theorem State.latchFall_tlen : (s.latchFall).tlen = s.tlen := rfl
@[simp] theorem State.latchFall_tbuf : (s.latchFall).tbuf = s.tbuf := rfl
@[simp] theorem State.latchFall_seq : (s.latchFall).seq = s.seq := rfl
@[simp] theorem State.latchFall_pos : (s.latchFall).pos = s.pos := rfl
@[simp] theorem State.latchFall_dataPin : (s.latchFall).dataPin = s.dataPin := rfl
@[simp] theorem State.latchFall_clkPin : (s.latchFall).clkPin = s.clkPin := rfl
@[simp] theorem State.latchFall_latchPin : (s.latchFall).latchPin = .inactive := rfl
@[simp] theorem State.latchFall_waitReq : (s.latchFall).waitReq = s.waitReq := rfl
@[simp] theorem State.latchFall_waitMs : (s.latchFall).waitMs = s.waitMs := rfl
@[simp] theorem State.latchFall_rsp : (s.latchFall).rsp = s.rsp := rfl
@[simp] theorem State.latchFall_rspValid : (s.latchFall).rspValid = s.rspValid := rfl
@[simp] theorem State.latchFall_trace : (s.latchFall).trace = s.trace := rfl
@[simp] theorem State.latchFall_earlier : (s.latchFall).earlier = s.earlier := rfl
@[simp] theorem State.latchFall_sr : (s.latchFall).sr = s.sr := rfl
@[simp] theorem State.latchFall_dev : (s.latchFall).dev = s.dev := rfl
@[simp] theorem State.latchFall_powerUps : (s.latchFall).powerUps = s.powerUps := rfl
@[simp] theorem State.latchFall_host : (s.latchFall).host = s.host := rfl

@[simp] theorem State.hardReset_par : (s.hardReset).par = s.par := rfl
@[simp] theorem State.hardReset_shadow : (s.hardReset).shadow = List.replicate (8 * s.par.devices) 0x00 := rfl
@[simp] theorem State.hardReset_tlen : (s.hardReset).tlen = 0 := rfl
@[simp] theorem State.hardReset_tbuf : (s.hardReset).tbuf = [] := rfl
@[simp] theorem State.hardReset_seq : (s.hardReset).seq = .idle := rfl
@[simp] theorem State.hardReset_pos : (s.hardReset).pos = 0 := rfl
@[simp] theorem State.hardReset_dataPin : (s.hardReset).dataPin = false := rfl
@[simp] theorem State.hardReset_clkPin : (s.hardReset).clkPin = .idle := rfl
@[simp] theorem State.hardReset_latchPin : (s.hardReset).latchPin = .inactive := rfl
@[simp] theorem State.hardReset_waitReq : (s.hardReset).waitReq = false := rfl
@[simp] theorem State.hardReset_waitMs : (s.hardReset).waitMs = 0 := rfl
@[simp] theorem State.hardReset_rsp : (s.hardReset).rsp = 0x00 := rfl
@[simp] theorem State.hardReset_rspValid : (s.hardReset).rspValid = false := rfl
@[simp] theorem State.hardReset_trace : (s.hardReset).trace = [] := rfl
@[simp] theorem State.hardReset_earlier : (s.hardReset).earlier = s.trace ++ s.earlier := rfl
@[simp] theorem State.hardReset_sr : (s.hardReset).sr = s.sr := rfl
@[simp] theorem State.hardReset_dev : (s.hardReset).dev = s.dev := rfl
@[simp] theorem State.hardReset_powerUps : (s.hardReset).powerUps = s.powerUps := rfl
@[simp] theorem State.hardReset_host : (s.hardReset).host = s.host := rfl

@[simp] theorem State.shiftForeign_par (t : Nat) (f : WireFrame) : (s.shiftForeign t f).par = s.par := rfl
@[simp] theorem State.shiftForeign_shadow (t : Nat) (f : WireFrame) : (s.shiftForeign t f).shadow = s.shadow := rfl
@[simp] theorem State.shiftForeign_tlen (t : Nat) (f : WireFrame) : (s.shiftForeign t f).tlen = s.tlen := rfl
@[simp] theorem State.shiftForeign_tbuf (t : Nat) (f : WireFrame) : (s.shiftForeign t f).tbuf = s.tbuf := rfl
@[simp] theorem State.shiftForeign_seq (t : Nat) (f : WireFrame) : (s.shiftForeign t f).seq = s.seq := rfl
@[simp] theorem State.shiftForeign_pos (t : Nat) (f : WireFrame) : (s.shiftForeign t f).pos = t := rfl
@[simp] theorem State.shiftForeign_dataPin (t : Nat) (f : WireFrame) : (s.shiftForeign t f).dataPin = s.dataPin := rfl
@[simp] theorem State.shiftForeign_clkPin (t : Nat) (f : WireFrame) : (s.shiftForeign t f).clkPin = s.clkPin := rfl
@[simp] theorem State.shiftForeign_latchPin (t : Nat) (f : WireFrame) : (s.shiftForeign t f).latchPin = s.latchPin := rfl
@[simp] theorem State.shiftForeign_waitReq (t : Nat) (f : WireFrame) : (s.shiftForeign t f).waitReq = s.waitReq := rfl
@[simp] theorem State.shiftForeign_waitMs (t : Nat) (f : WireFrame) : (s.shiftForeign t f).waitMs = s.waitMs := rfl
@[simp] theorem State.shiftForeign_rsp (t : Nat) (f : WireFrame) : (s.shiftForeign t f).rsp = s.rsp := rfl
@[simp] theorem State.shiftForeign_rspValid (t : Nat) (f : WireFrame) : (s.shiftForeign t f).rspValid = s.rspValid := rfl
@[simp] theorem State.shiftForeign_trace (t : Nat) (f : WireFrame) : (s.shiftForeign t f).trace = s.trace := rfl
@[simp] theorem State.shiftForeign_earlier (t : Nat) (f : WireFrame) : (s.shiftForeign t f).earlier = s.earlier := rfl
@[simp] theorem State.shiftForeign_sr (t : Nat) (f : WireFrame) : (s.shiftForeign t f).sr = (shiftOrder (frameVector s.par.devices t f)).foldl (shiftIn s.par.devices) s.sr := rfl
@[simp] theorem State.shiftForeign_dev (t : Nat) (f : WireFrame) : (s.shiftForeign t f).dev = s.dev := rfl
@[simp] theorem State.shiftForeign_powerUps (t : Nat) (f : WireFrame) : (s.shiftForeign t f).powerUps = s.powerUps := rfl
@[simp] theorem State.shiftForeign_host (t : Nat) (f : WireFrame) : (s.shiftForeign t f).host = s.host := rfl

@[simp] theorem State.devicePowerUp_par (p : Nat) : (s.devicePowerUp p).par = s.par := rfl
@[simp] theorem State.devicePowerUp_shadow (p : Nat) : (s.devicePowerUp p).shadow = s.shadow := rfl
@[simp] theorem State.devicePowerUp_tlen (p : Nat) : (s.devicePowerUp p).tlen = s.tlen := rfl
@[simp] theorem State.devicePowerUp_tbuf (p : Nat) : (s.devicePowerUp p).tbuf = s.tbuf := rfl
@[simp] theorem State.devicePowerUp_seq (p : Nat) : (s.devicePowerUp p).seq = s.seq := rfl
@[simp] theorem State.devicePowerUp_pos (p : Nat) : (s.devicePowerUp p).pos = s.pos := rfl
@[simp] theorem State.devicePowerUp_dataPin (p : Nat) : (s.devicePowerUp p).dataPin = s.dataPin := rfl
@[simp] theorem State.devicePowerUp_clkPin (p : Nat) : (s.devicePowerUp p).clkPin = s.clkPin := rfl
@[simp] theorem State.devicePowerUp_latchPin (p : Nat) : (s.devicePowerUp p).latchPin = s.latchPin := rfl
@[simp] theorem State.devicePowerUp_waitReq (p : Nat) : (s.devicePowerUp p).waitReq = s.waitReq := rfl
@[simp] theorem State.devicePowerUp_waitMs (p : Nat) : (s.devicePowerUp p).waitMs = s.waitMs := rfl
@[simp] theorem State.devicePowerUp_rsp (p : Nat) : (s.devicePowerUp p).rsp = s.rsp := rfl
@[simp] theorem State.devicePowerUp_rspValid (p : Nat) : (s.devicePowerUp p).rspValid = s.rspValid := rfl
@[simp] theorem State.devicePowerUp_trace (p : Nat) : (s.devicePowerUp p).trace = s.trace := rfl
@[simp] theorem State.devicePowerUp_earlier (p : Nat) : (s.devicePowerUp p).earlier = s.earlier := rfl
@[simp] theorem State.devicePowerUp_sr (p : Nat) : (s.devicePowerUp p).sr =
    s.sr.take (16 * p) ++ frameBits (Config.powerUpFrame (s.powerUpCount p + 1) p) ++ s.sr.drop (16 * p + 16) := rfl
@[simp] theorem State.devicePowerUp_dev (p : Nat) :
    (s.devicePowerUp p).dev = s.dev.filter fun e => decide (e.1 / 256 ≠ p) := rfl
@[simp] theorem State.devicePowerUp_powerUps (p : Nat) :
    (s.devicePowerUp p).powerUps = Mem.write s.powerUps p (s.powerUpCount p + 1) := rfl
@[simp] theorem State.devicePowerUp_host (p : Nat) : (s.devicePowerUp p).host = s.host := rfl

end

end Sys2Proof.Machine
end

