-- ==== Sys2Proof/Laws/Actions.lean ====
section
/-! SUPPORT. Running a list of actions: what it answers and when. -/

namespace Sys2Proof.Machine

@[simp] theorem runActions_nil (s : State) : runActions [] s = .next s := rfl

/-- A list without a refused read runs to its end: the state is the fold of the actions. -/
theorem runActions_eq_foldl (acts : List Action) (s : State) (h : ∀ a ∈ acts, a.stops = none) :
    runActions acts s = .next (acts.foldl State.act s) := by
  induction acts generalizing s with
  | nil => rfl
  | cons a as ih =>
    simp only [runActions, h a (by simp), List.foldl_cons]
    exact ih (s.act a) fun b hb => h b (by simp [hb])

/-- Whatever a list of actions answers as a next state is the fold of the actions. -/
theorem runActions_next {acts : List Action} {s t : State} (h : runActions acts s = .next t) :
    t = acts.foldl State.act s ∧ ∀ a ∈ acts, a.stops = none := by
  induction acts generalizing s with
  | nil => simp [runActions] at h; simp [h]
  | cons a as ih =>
    simp only [runActions] at h
    split at h
    · cases h
    · next hs =>
      obtain ⟨ht, hall⟩ := ih h
      refine ⟨ht, ?_⟩
      intro b hb
      rcases List.mem_cons.mp hb with rfl | hb
      · exact hs
      · exact hall b hb

/-- Running two lists one after the other. -/
theorem runActions_append (as bs : List Action) (s : State) :
    runActions (as ++ bs) s =
      match runActions as s with
      | .next t => runActions bs t
      | .fault r => .fault r
      | .refused r => .refused r := by
  induction as generalizing s with
  | nil => rfl
  | cons a as ih =>
    simp only [List.cons_append, runActions]
    split
    · rfl
    · exact ih (s.act a)

/-- A list of actions refuses only at a read of an unwritten text slot, with that slot's number. -/
theorem runActions_refused {acts : List Action} {s : State} {r : Refusal} (h : runActions acts s = .refused r) :
    ∃ k, .readUnwritten k ∈ acts ∧ r = .unwrittenTextSlot k := by
  induction acts generalizing s with
  | nil => simp [runActions] at h
  | cons a as ih =>
    simp only [runActions] at h
    split at h
    · next r' hs =>
      cases h
      cases a <;> simp [Action.stops] at hs
      next k => exact ⟨k, by simp, hs.symm⟩
    · obtain ⟨k, hk, hr⟩ := ih h
      exact ⟨k, by simp [hk], hr⟩

/-- An action never writes the parameters, the events before the last reset, the moves to come, the position, or the record of
the devices' power-ups. -/
theorem State.act_frame (s : State) (a : Action) :
    (s.act a).par = s.par ∧ (s.act a).earlier = s.earlier ∧ (s.act a).host = s.host ∧ (s.act a).pos = s.pos ∧
      (s.act a).powerUps = s.powerUps := by
  cases a <;> exact ⟨rfl, rfl, rfl, rfl, rfl⟩

/-- The same of a list of actions. -/
theorem foldl_act_frame (acts : List Action) (s : State) :
    (acts.foldl State.act s).par = s.par ∧ (acts.foldl State.act s).earlier = s.earlier ∧
      (acts.foldl State.act s).host = s.host ∧ (acts.foldl State.act s).pos = s.pos ∧
      (acts.foldl State.act s).powerUps = s.powerUps := by
  induction acts generalizing s with
  | nil => exact ⟨rfl, rfl, rfl, rfl, rfl⟩
  | cons a as ih =>
    obtain ⟨h1, h2, h3, h4, h5⟩ := ih (s.act a)
    obtain ⟨g1, g2, g3, g4, g5⟩ := s.act_frame a
    exact ⟨h1.trans g1, h2.trans g2, h3.trans g3, h4.trans g4, h5.trans g5⟩

end Sys2Proof.Machine
end

