-- ==== Sys2Proof/Laws/Mem.lean ====
section
/-! SUPPORT. The laws of a memory: read after write, writes elsewhere, and the canonical form. -/

namespace Sys2Proof.Machine.Mem

variable {α : Type}

@[simp] theorem read_nil (k : Nat) : read ([] : List (Nat × α)) k = none := rfl

/-- In a canonical memory every address of the tail lies above the head's. -/
theorem head_lt_of_wf {a : Nat} {w : α} {rest : List (Nat × α)} (h : wf ((a, w) :: rest)) :
    ∀ e ∈ rest, a < e.1 := by
  intro e he
  have := (List.pairwise_cons.mp h).1
  exact this e.1 (List.mem_map_of_mem he)

/-- An address above every listed one is not listed. -/
theorem read_eq_none_of_lt (m : List (Nat × α)) (k : Nat) (h : ∀ e ∈ m, k < e.1) : read m k = none := by
  induction m with
  | nil => rfl
  | cons e rest ih =>
    obtain ⟨a, w⟩ := e
    have ha : k < a := h (a, w) (by simp)
    simp only [read]
    rw [if_neg (by omega)]
    exact ih fun e he => h e (by simp [he])

theorem read_write_same (m : List (Nat × α)) (k : Nat) (v : α) : read (write m k v) k = some v := by
  induction m with
  | nil => simp [write, read]
  | cons e rest ih =>
    obtain ⟨a, w⟩ := e
    simp only [write]
    split
    · simp [read]
    · split
      · simp [read]
      · next hne => simp [read, hne, ih]

theorem read_write_other (m : List (Nat × α)) (k j : Nat) (v : α) (hjk : j ≠ k) :
    read (write m k v) j = read m j := by
  induction m with
  | nil => simp [write, read, Ne.symm hjk]
  | cons e rest ih =>
    obtain ⟨a, w⟩ := e
    simp only [write]
    split
    · simp [read, Ne.symm hjk]
    · split
      · next h => subst h; simp [read, Ne.symm hjk]
      · simp [read, ih]

/-- Reading after a write, at any address. -/
theorem read_write (m : List (Nat × α)) (k j : Nat) (v : α) :
    read (write m k v) j = if j = k then some v else read m j := by
  split
  · next h => subst h; exact read_write_same m j v
  · next h => exact read_write_other m k j v h

/-- The entries of a written memory are the new one and old ones. -/
theorem mem_write {m : List (Nat × α)} {k : Nat} {v : α} {e : Nat × α} (h : e ∈ write m k v) :
    e = (k, v) ∨ e ∈ m := by
  induction m with
  | nil => simpa [write] using h
  | cons x rest ih =>
    obtain ⟨a, w⟩ := x
    simp only [write] at h
    split at h
    · simpa using h
    · split at h
      · rcases List.mem_cons.mp h with h | h
        · exact .inl h
        · exact .inr (by simp [h])
      · rcases List.mem_cons.mp h with h | h
        · exact .inr (by simp [h])
        · rcases ih h with h | h
          · exact .inl h
          · exact .inr (by simp [h])

/-- A write keeps the canonical form. -/
theorem write_wf (m : List (Nat × α)) (k : Nat) (v : α) (h : wf m) : wf (write m k v) := by
  induction m with
  | nil => simp [write, wf]
  | cons x rest ih =>
    obtain ⟨a, w⟩ := x
    have hlt := head_lt_of_wf h
    have hrest : wf rest := (List.pairwise_cons.mp h).2
    simp only [write]
    split
    · next hka =>
      refine List.pairwise_cons.mpr ⟨?_, h⟩
      intro b hb
      simp only [List.map_cons, List.mem_cons, List.mem_map] at hb
      rcases hb with rfl | ⟨e, he, rfl⟩
      · exact hka
      · exact Nat.lt_trans hka (hlt e he)
    · split
      · next hak => subst hak; simpa [wf] using h
      · next hka hak =>
        refine List.pairwise_cons.mpr ⟨?_, ih hrest⟩
        intro b hb
        obtain ⟨e, he, rfl⟩ := List.mem_map.mp hb
        rcases mem_write he with rfl | he
        · show a < k
          omega
        · exact hlt e he

/-- Dropping entries keeps the canonical form. -/
theorem filter_wf (m : List (Nat × α)) (f : Nat × α → Bool) (h : wf m) : wf (m.filter f) :=
  h.sublist (List.filter_sublist.map Prod.fst)

/-- Reading a memory from which the entries at some addresses were dropped. -/
theorem read_filter (m : List (Nat × α)) (f : Nat → Bool) (k : Nat) :
    read (m.filter fun e => f e.1) k = if f k then read m k else none := by
  induction m with
  | nil => simp
  | cons e rest ih =>
    obtain ⟨a, w⟩ := e
    by_cases ha : f a = true
    · rw [List.filter_cons_of_pos (p := fun e : Nat × α => f e.1) ha, read, ih, read]
      by_cases h : a = k
      · subst h; simp [ha]
      · simp [h]
    · rw [List.filter_cons_of_neg (p := fun e : Nat × α => f e.1) ha, ih, read]
      by_cases h : a = k
      · subst h; simp [ha]
      · simp [h]

end Sys2Proof.Machine.Mem
end

