-- ==== Sys2Proof/Laws/Bus.lean ====
section
/-! SUPPORT. What a transaction does: bits in the chain, the commit, and both together at the level of frames. -/

namespace Sys2Proof.Machine

/-! ## Frames and bits -/

@[simp] theorem frameBits_length (f : WireFrame) : (frameBits f).length = 16 := by simp [frameBits]

theorem natOfBits_testBit (bs : List Bool) (i : Nat) : (natOfBits bs).testBit i = bs.getD i false := by
  induction bs generalizing i with
  | nil => simp [natOfBits]
  | cons b bs ih =>
    cases i with
    | zero => cases b <;> simp [natOfBits, Nat.testBit_zero, Nat.add_mod]
    | succ i =>
      have h : (b.toNat + 2 * natOfBits bs) / 2 = natOfBits bs := by cases b <;> simp; omega
      simp [natOfBits, Nat.testBit_succ, h, ih]

/-- Bit `i` of the frame a device holds is bit `16 * p + i` of the shift register (rule R138). -/
theorem frameAt_getLsbD (sr : List Bool) (p i : Nat) (hi : i < 16) :
    (frameAt sr p).getLsbD i = sr.getD (16 * p + i) false := by
  simp only [frameAt, BitVec.getLsbD_ofNat, natOfBits_testBit, hi, decide_true, Bool.true_and]
  simp [List.getD_eq_getElem?_getD, hi, List.getElem?_drop]

theorem mkFrame_op (op data : Byte) : frameOp (mkFrame op data) = op := by
  apply BitVec.eq_of_getLsbD_eq
  intro i hi
  simp only [frameOp, mkFrame, BitVec.getLsbD_extractLsb', BitVec.getLsbD_append, hi, decide_true, Bool.true_and]
  rw [if_neg (by omega)]
  congr 1; omega

theorem mkFrame_data (op data : Byte) : frameData (mkFrame op data) = data := by
  apply BitVec.eq_of_getLsbD_eq
  intro i hi
  simp only [frameData, mkFrame, BitVec.getLsbD_extractLsb', BitVec.getLsbD_append, hi, decide_true, Bool.true_and,
    Nat.zero_add]
  simp

/-- A frame is its opcode and its data. -/
theorem mkFrame_eta (f : WireFrame) : mkFrame (frameOp f) (frameData f) = f := by
  apply BitVec.eq_of_getLsbD_eq
  intro i hi
  simp only [frameOp, frameData, mkFrame, BitVec.getLsbD_extractLsb', BitVec.getLsbD_append]
  split
  · next h => simp [h]
  · next h =>
    have h1 : i - 8 < 8 := by omega
    have h2 : 8 + (i - 8) = i := by omega
    simp [h1, h2]

@[simp] theorem frameOp_zero : frameOp 0 = opNoop := by decide

/-! ## Shifting (rule R138) -/

/-- Shifting a list of bits in, whatever the register held. -/
theorem foldl_shiftIn (n : Nat) (bs sr : List Bool) (h : sr.length ≤ 16 * n) :
    bs.foldl (shiftIn n) sr = (bs.reverse ++ sr).take (16 * n) := by
  induction bs generalizing sr with
  | nil => simp [List.take_of_length_le h]
  | cons b bs ih =>
    rw [List.foldl_cons, ih _ (by simp [shiftIn])]
    simp only [shiftIn, List.reverse_cons, List.append_assoc, List.singleton_append]
    rw [List.take_append, List.take_append, List.take_take]
    congr 2
    omega

/-- As many bits as the register is long replace it whole, whatever it held. -/
theorem foldl_shiftIn_full (n : Nat) (bs sr : List Bool) (hn : 0 < n) (h : bs.length = 16 * n) :
    bs.foldl (shiftIn n) sr = bs.reverse := by
  cases bs with
  | nil => simp at h; omega
  | cons b bs =>
    have hb : bs.length + 1 = 16 * n := by simpa using h
    rw [List.foldl_cons, foldl_shiftIn n bs _ (by simp [shiftIn]), List.take_append,
      List.take_of_length_le (by simp; omega), List.reverse_cons]
    have h1 : 16 * n - bs.reverse.length = 1 := by simp; omega
    rw [h1, shiftIn, ← hb]
    simp

@[simp] theorem frameVector_length (n t : Nat) (f : WireFrame) : (frameVector n t f).length = n := by
  simp [frameVector]

theorem flatMap_frameBits_length (frames : List WireFrame) :
    (frames.flatMap frameBits).length = 16 * frames.length := by
  induction frames with
  | nil => rfl
  | cons f fs ih => simp [ih]; omega

/-- The order shifted is the register's content read backwards. -/
theorem shiftOrder_reverse (frames : List WireFrame) : (shiftOrder frames).reverse = frames.flatMap frameBits := by
  simp [shiftOrder, List.reverse_flatMap, Function.comp_def]

@[simp] theorem shiftOrder_length (frames : List WireFrame) : (shiftOrder frames).length = 16 * frames.length := by
  rw [← List.length_reverse, shiftOrder_reverse, flatMap_frameBits_length]

/-- A frame vector shifted in is what the chain holds, whatever it held before (rule R138). -/
theorem shift_vector (n t : Nat) (f : WireFrame) (sr : List Bool) (hn : 0 < n) :
    (shiftOrder (frameVector n t f)).foldl (shiftIn n) sr = (frameVector n t f).flatMap frameBits := by
  rw [foldl_shiftIn_full n _ _ hn (by simp), shiftOrder_reverse]

/-- Frame `p` of a register that holds a list of frames. -/
theorem frameAt_flatMap (frames : List WireFrame) (p : Nat) (hp : p < frames.length) (extra : List Bool) :
    frameAt (frames.flatMap frameBits ++ extra) p = frames[p] := by
  induction frames generalizing p with
  | nil => simp at hp
  | cons f fs ih =>
    apply BitVec.eq_of_getLsbD_eq
    intro i hi
    rw [frameAt_getLsbD _ _ _ hi]
    cases p with
    | zero =>
      simp [List.getD_eq_getElem?_getD, List.getElem?_append, hi, frameBits]
    | succ p =>
      have hp' : p < fs.length := by simpa using hp
      have := congrArg (fun g : WireFrame => g.getLsbD i) (ih p hp')
      simp only [frameAt_getLsbD _ _ _ hi] at this
      rw [List.getElem_cons_succ, ← this]
      simp only [List.flatMap_cons, List.append_assoc, List.getD_eq_getElem?_getD]
      rw [List.getElem?_append_right (by simp; omega)]
      congr 2
      simp; omega

theorem frameVector_getElem (n t : Nat) (f : WireFrame) (p : Nat) (hp : p < (frameVector n t f).length) :
    (frameVector n t f)[p] = if p = t then f else 0 := by simp [frameVector]

/-- What device `p` holds after a transaction's bits. -/
theorem frameAt_vector (n t p : Nat) (f : WireFrame) (hp : p < n) (extra : List Bool) :
    frameAt ((frameVector n t f).flatMap frameBits ++ extra) p = if p = t then f else 0 := by
  rw [frameAt_flatMap _ _ (by simpa using hp), frameVector_getElem]

/-! ## The commit (rule R139) -/

/-- A latch after a transaction writes one register of one device and nothing else. -/
theorem commitAll_vector (n t : Nat) (op data : Byte) (dev : List (Nat × Byte)) (ht : t < n) (hop : op ≠ opNoop) :
    commitAll n ((frameVector n t (mkFrame op data)).flatMap frameBits) dev = Mem.write dev (devKey t op) data := by
  have key : ∀ m ≤ n, (List.range m).foldl
      (fun dev p => commitFrame dev p (frameAt ((frameVector n t (mkFrame op data)).flatMap frameBits) p)) dev =
      if t < m then Mem.write dev (devKey t op) data else dev := by
    intro m hm
    induction m with
    | zero => simp
    | succ m ih =>
      rw [List.range_succ, List.foldl_append, ih (by omega)]
      have hf := frameAt_vector n t m (mkFrame op data) (by omega) []
      rw [List.append_nil] at hf
      simp only [List.foldl_cons, List.foldl_nil, hf]
      by_cases hmt : m = t
      · subst hmt
        simp [commitFrame, mkFrame_op, mkFrame_data, hop]
      · rw [if_neg hmt]
        simp only [commitFrame, frameOp_zero, if_true]
        by_cases h : t < m
        · rw [if_pos h, if_pos (by omega)]
        · rw [if_neg h, if_neg (by omega)]
  have := key n (Nat.le_refl n)
  rwa [if_pos ht] at this

/-- Addresses of device registers are distinct for distinct devices or opcodes. -/
theorem devKey_inj {p q : Nat} {a b : Byte} : devKey p a = devKey q b ↔ p = q ∧ a = b := by
  constructor
  · intro h
    have ha := a.isLt
    have hb := b.isLt
    simp only [devKey] at h
    exact ⟨by omega, BitVec.eq_of_toNat_eq (by omega)⟩
  · rintro ⟨rfl, rfl⟩; rfl

/-- Reading a device register after a write. -/
theorem State.devAt_writeDevice (s : State) (p q : Nat) (a b v : Byte) :
    (s.writeDevice p a v).devAt q b = if q = p ∧ b = a then v else s.devAt q b := by
  simp only [State.devAt, State.powerUpCount, State.writeDevice_dev, State.writeDevice_powerUps, Mem.read_write,
    devKey_inj]
  split <;> rfl

/-! ## A device that powers up on its own (rule R299) -/

/-- Reading a device register after it: free for the device itself, unchanged for the others. -/
theorem State.devAt_devicePowerUp (s : State) (p q : Nat) (op : Byte) :
    (s.devicePowerUp p).devAt q op =
      if q = p then Config.powerUpReg (s.powerUpCount p + 1) p op else s.devAt q op := by
  have hk : devKey q op / 256 = q := by have := op.isLt; simp only [devKey]; omega
  simp only [State.devAt, State.devicePowerUp, State.powerUpCount]
  rw [Mem.read_filter _ (fun k => decide (k / 256 ≠ p)), hk]
  by_cases h : q = p
  · subst h; simp [Mem.read_write]
  · simp [Mem.read_write, h]

theorem State.devicePowerUp_sr_length (s : State) (p : Nat) (hp : p < s.par.devices)
    (h : s.sr.length = 16 * s.par.devices) : (s.devicePowerUp p).sr.length = s.sr.length := by
  simp only [State.devicePowerUp, List.length_append, List.length_take, List.length_drop, frameBits_length]
  omega

/-! ## Transactions -/

/-- One clock pulse (rule R134). -/
theorem foldl_pulseActions (b : Bool) (s : State) : (pulseActions b).foldl State.act s =
    { s with
      dataPin := b, clkPin := .idle, sr := shiftIn s.par.devices s.sr b, trace := .bit b :: s.trace } := rfl

/-- One latch pulse (rules R134, R139). -/
theorem foldl_latchPulse (s : State) : latchPulseActions.foldl State.act s =
    { s with latchPin := .inactive, dev := commitAll s.par.devices s.sr s.dev, trace := .latch :: s.trace } := rfl

/-- A run of clock pulses: the last bit stays on `DATA`, the bits enter the chain, one event each. -/
theorem foldl_pulse (bs : List Bool) (s : State) :
    (bs.flatMap pulseActions).foldl State.act s =
      { s with
        dataPin := bs.getLastD s.dataPin
        clkPin := if bs = [] then s.clkPin else .idle
        sr := bs.foldl (shiftIn s.par.devices) s.sr
        trace := (bs.map Event.bit).reverse ++ s.trace } := by
  induction bs generalizing s with
  | nil => rfl
  | cons b bs ih =>
    rw [List.flatMap_cons, List.foldl_append, foldl_pulseActions, ih]
    cases bs with
    | nil => rfl
    | cons c cs => simp [List.getLast?_cons]

/-- The actions of a transaction move the pins and emit bits and a latch, nothing else. -/
theorem mem_transmitActions {p : Params} {t : Nat} {op data : Byte} {a : Action}
    (h : a ∈ transmitActions p t op data) :
    (∃ b, a = .data b) ∨ a = .clkRise ∨ a = .clkFall ∨ a = .latchRise ∨ a = .latchFall ∨ (∃ b, a = .emit (.bit b)) ∨
      a = .emit .latch := by
  simp only [transmitActions, shiftOutActions, pulseActions, latchPulseActions, List.mem_append, List.mem_flatMap,
    List.mem_cons, List.not_mem_nil, or_false] at h
  rcases h with ⟨b, -, rfl | rfl | rfl | rfl⟩ | rfl | rfl | rfl <;> simp

theorem transmitActions_stops (p : Params) (t : Nat) (op data : Byte) :
    ∀ a ∈ transmitActions p t op data, a.stops = none := by
  intro a ha
  rcases mem_transmitActions ha with ⟨b, rfl⟩ | rfl | rfl | rfl | rfl | ⟨b, rfl⟩ | rfl <;> rfl

/-- The last bit shifted is bit 0 of the frame for position 0 (rules R132, R133). -/
theorem shiftOrder_getLastD (n t : Nat) (op data : Byte) (hn : 0 < n) (b : Bool) :
    (shiftOrder (frameVector n t (mkFrame op data))).getLastD b = if t = 0 then data.getLsbD 0 else false := by
  obtain ⟨m, rfl⟩ : ∃ m, n = m + 1 := ⟨n - 1, by omega⟩
  rw [← List.reverse_reverse (shiftOrder _), shiftOrder_reverse]
  have h : ∀ l : List Bool, l.reverse.getLastD b = l.headD b := by
    intro l; cases l <;> simp
  rw [h, frameVector, List.range_succ_eq_map]
  have h2 : (frameBits (mkFrame op data)).headD b = data.getLsbD 0 := by
    have := congrArg (fun g : Byte => g.getLsbD 0) (mkFrame_data op data)
    simp only [frameData, BitVec.getLsbD_extractLsb'] at this
    simpa [frameBits, List.range_succ_eq_map] using this
  by_cases ht : t = 0
  · subst ht
    simpa [frameBits, List.range_succ_eq_map] using h2
  · rw [if_neg ht]
    have : ¬ 0 = t := fun h => ht h.symm
    simp [frameBits, List.range_succ_eq_map, this]

/-- A transaction, at the level of frames: the bits, the latch and the commit together (rules R130 to R139). -/
theorem foldl_transmit (s : State) (t : Nat) (op data : Byte) (ht : t < s.par.devices) (hop : op ≠ opNoop) :
    (transmitActions s.par t op data).foldl State.act s = s.afterTransaction t op data := by
  have hn : 0 < s.par.devices := by omega
  have hne : shiftOrder (frameVector s.par.devices t (mkFrame op data)) ≠ [] := by
    intro h
    have := shiftOrder_length (frameVector s.par.devices t (mkFrame op data))
    rw [h] at this
    simp at this; omega
  simp only [transmitActions, shiftOutActions, List.foldl_append, foldl_pulse, hne, if_false,
    shift_vector _ _ _ _ hn, shiftOrder_getLastD _ _ _ _ hn, foldl_latchPulse]
  simp [commitAll_vector _ _ _ _ _ ht hop, State.afterTransaction, transactionEvents]

/-- `Transmit` as a run. -/
theorem runActions_transmit (s : State) (t : Nat) (op data : Byte) (ht : t < s.par.devices) (hop : op ≠ opNoop) :
    runActions (transmitActions s.par t op data) s = .next (s.afterTransaction t op data) := by
  rw [runActions_eq_foldl _ _ (transmitActions_stops _ _ _ _), foldl_transmit s t op data ht hop]

theorem writeDigitActions_stops (p : Params) (d i : Nat) (pat : Byte) :
    ∀ a ∈ writeDigitActions p d i pat, a.stops = none := by
  intro a ha
  rcases List.mem_cons.mp ha with rfl | ha
  · rfl
  · exact transmitActions_stops _ _ _ _ a ha

/-- `WriteDigit`: shadow register and device register take the same byte (rule R180). -/
theorem foldl_writeDigit (s : State) (d i : Nat) (pat : Byte) (hd : d < s.par.devices)
    (hop : digitOp s.par.ops i ≠ opNoop) :
    (writeDigitActions s.par d i pat).foldl State.act s =
      (s.setShadow d i pat).afterTransaction d (digitOp s.par.ops i) pat := by
  simp only [writeDigitActions, List.foldl_cons, State.act]
  exact foldl_transmit (s.setShadow d i pat) d _ pat hd hop

end Sys2Proof.Machine
end

