-- ==== Sys2Proof/Laws/Decode.lean ====
section
/-! SUPPORT. What the wire decoder answers, and when. -/

namespace Sys2Proof
open Machine

/-- Whatever decodes is the no-op frame, or the instruction of the row its opcode selects, with the frame's data byte. -/
theorem decodeWire_cases {ops : WireOps} {f : WireFrame} {i : Instr} (h : decodeWire ops f = .ok i) :
    (f = 0 ∧ i = .wNoop) ∨
      ∃ row ∈ wireRows ops, frameOp f = row.1 ∧ frameOp f ≠ opNoop ∧ i = row.2 (frameData f) := by
  unfold decodeWire at h
  split at h
  · next h0 =>
    split at h
    · next hz =>
      cases h
      refine .inl ⟨?_, rfl⟩
      rw [← mkFrame_eta f, h0, hz]
      decide
    · cases h
  · next h0 =>
    split at h
    · next row hr =>
      cases h
      have hop := List.find?_some hr
      exact .inr ⟨row, List.mem_of_find?_eq_some hr, (eq_of_beq hop).symm, h0, rfl⟩
    · cases h

/-- The opcodes of the rows are the wire opcodes. -/
theorem wireRows_ops (ops : WireOps) (h : ops.digits.length = 8) : (wireRows ops).map (·.1) = allOps ops := by
  obtain ⟨digs, dm, it, sl, sd, dt⟩ := ops
  match digs, h with
  | [_, _, _, _, _, _, _, _], _ => rfl

/-- Looking a key up in a list of rows without repeated keys finds the row. -/
theorem find_row {α : Type} (l : List (Byte × α)) (row : Byte × α) (hrow : row ∈ l) (hn : (l.map (·.1)).Nodup) :
    l.find? (fun r => r.1 == row.1) = some row := by
  induction l with
  | nil => cases hrow
  | cons x xs ih =>
    simp only [List.map_cons, List.nodup_cons] at hn
    rcases List.mem_cons.mp hrow with rfl | hm
    · simp
    · have hx : (x.1 == row.1) = false := by
        have : x.1 ≠ row.1 := fun h => hn.1 (h ▸ List.mem_map_of_mem hm)
        simpa using this
      rw [List.find?_cons, hx]
      exact ih hm hn.2

/-- A frame with a row's opcode decodes to the row's instruction with the frame's data. -/
theorem decodeWire_row {ops : WireOps} (ho : opsWf ops) {row : Byte × (Byte → Instr)} (hrow : row ∈ wireRows ops)
    (data : Byte) : decodeWire ops (mkFrame row.1 data) = .ok (row.2 data) := by
  obtain ⟨hl, hn, hz⟩ := ho
  rw [← wireRows_ops ops hl] at hn hz
  have hne : row.1 ≠ opNoop := fun h => hz (h ▸ List.mem_map_of_mem hrow)
  unfold decodeWire
  rw [mkFrame_op, mkFrame_data, if_neg hne, find_row _ row hrow hn]

end Sys2Proof
end

