-- ==== Sys2Proof/Laws/Digits.lean ====
section
/-! SUPPORT. What a sequence of digit writes does, and a frame refresh. -/

namespace Sys2Proof.Machine

/-! ## The wire opcodes -/

theorem digitOp_mem_digits {ops : WireOps} (h : opsWf ops) {i : Nat} (hi : i < 8) : digitOp ops i ∈ ops.digits := by
  have hl : i < ops.digits.length := by rw [h.1]; exact hi
  simp only [digitOp, List.getD_eq_getElem?_getD, List.getElem?_eq_getElem hl, Option.getD_some]
  exact List.getElem_mem hl

theorem digitOp_mem {ops : WireOps} (h : opsWf ops) {i : Nat} (hi : i < 8) : digitOp ops i ∈ allOps ops :=
  List.mem_append_left _ (digitOp_mem_digits h hi)

theorem op_ne_noop {ops : WireOps} (h : opsWf ops) {op : Byte} (hm : op ∈ allOps ops) : op ≠ opNoop := by
  rintro rfl
  exact h.2.2 hm

theorem digitOp_inj {ops : WireOps} (h : opsWf ops) {i j : Nat} (hi : i < 8) (hj : j < 8)
    (he : digitOp ops i = digitOp ops j) : i = j := by
  have a : i < ops.digits.length := by rw [h.1]; exact hi
  have b : j < ops.digits.length := by rw [h.1]; exact hj
  simp only [digitOp, List.getD_eq_getElem?_getD, List.getElem?_eq_getElem a, List.getElem?_eq_getElem b,
    Option.getD_some] at he
  exact (List.Nodup.getElem_inj_iff (List.nodup_append.mp h.2.1).1).mp he

/-- A digit opcode is no control opcode. -/
theorem digitOp_ne_control {ops : WireOps} (h : opsWf ops) {i : Nat} (hi : i < 8) {op : Byte}
    (hop : op ∈ [ops.decodeMode, ops.intensity, ops.scanLimit, ops.shutdown, ops.displayTest]) :
    digitOp ops i ≠ op :=
  (List.nodup_append.mp h.2.1).2.2 _ (digitOp_mem_digits h hi) _ hop

/-! ## Reading after a write -/

/-- Reading a shadow register after a write (rule R51). -/
theorem State.shadowAt_setShadow (s : State) (d i : Nat) (v : Byte) (hl : s.shadow.length = 8 * s.par.devices)
    (hd : d < s.par.devices) (hi : i < 8) (d' i' : Nat) (hi' : i' < 8) :
    (s.setShadow d i v).shadowAt d' i' = if d' = d ∧ i' = i then v else s.shadowAt d' i' := by
  simp only [State.shadowAt, State.setShadow_shadow, List.getD_eq_getElem?_getD, List.getElem?_set]
  by_cases h : d' = d ∧ i' = i
  · obtain ⟨rfl, rfl⟩ := h
    have : 8 * d' + i' < s.shadow.length := by omega
    simp [this]
  · rw [if_neg (by omega), if_neg h]

theorem State.devAt_afterTransaction (s : State) (t : Nat) (op data : Byte) (q : Nat) (b : Byte) :
    (s.afterTransaction t op data).devAt q b = if q = t ∧ b = op then data else s.devAt q b :=
  s.devAt_writeDevice t q op b data

theorem onlyDisplay.refl (s : State) (hc : s.clkPin = .idle) (hl : s.latchPin = .inactive) : onlyDisplay s s := by
  unfold onlyDisplay
  cases s
  simp_all

theorem onlyDisplay.trans {s t u : State} (h1 : onlyDisplay s t) (h2 : onlyDisplay t u) : onlyDisplay s u := by
  unfold onlyDisplay at *
  rw [h2, h1]

/-! ## Sequences of digit writes -/

/-- The actions of writing a list of (digit, pattern) pairs on device `d`. -/
abbrev digitActions (p : Params) (d : Nat) (pats : List (Nat × Byte)) : List Action :=
  pats.flatMap fun e => writeDigitActions p d e.1 e.2

/-- `t` is `s` after the digit writes. -/
structure DigitsWritten (s t : State) (d : Nat) (pats : List (Nat × Byte)) : Prop where
  frame     : onlyDisplay s t
  events    : t.trace = (digitEvents s.par d pats).reverse ++ s.trace
  shadowIn  : ∀ e ∈ pats, t.shadowAt d e.1 = e.2
  shadowOut : ∀ d' i', i' < 8 → (d' ≠ d ∨ ∀ e ∈ pats, e.1 ≠ i') → t.shadowAt d' i' = s.shadowAt d' i'
  devIn     : ∀ e ∈ pats, t.devAt d (digitOp s.par.ops e.1) = e.2
  devOut    : ∀ q op, (q ≠ d ∨ ∀ e ∈ pats, op ≠ digitOp s.par.ops e.1) → t.devAt q op = s.devAt q op
  none      : pats = [] → t.sr = s.sr ∧ t.dataPin = s.dataPin
  length    : t.shadow.length = s.shadow.length
  last      : ∀ init e, pats = init ++ [e] → lastTransaction s t d (digitOp s.par.ops e.1) e.2

/-- What writing pairwise different digits of one device does (rule R180, once per pair). -/
theorem foldl_digitActions (pats : List (Nat × Byte)) (d : Nat) (s : State) (hp : opsWf s.par.ops)
    (hd : d < s.par.devices) (h8 : ∀ e ∈ pats, e.1 < 8) (hn : (pats.map (·.1)).Nodup)
    (hl : s.shadow.length = 8 * s.par.devices) (hc : s.clkPin = .idle) (hla : s.latchPin = .inactive) :
    DigitsWritten s ((digitActions s.par d pats).foldl State.act s) d pats := by
  induction pats generalizing s with
  | nil => exact ⟨.refl s hc hla, rfl, by simp, fun _ _ _ _ => rfl, by simp, fun _ _ _ => rfl, fun _ => ⟨rfl, rfl⟩, rfl,
      by simp⟩
  | cons e rest ih =>
    simp only [List.map_cons, List.nodup_cons] at hn
    have h8e := h8 e (by simp)
    have hne := op_ne_noop hp (digitOp_mem hp h8e)
    let s1 : State := (s.setShadow d e.1 e.2).afterTransaction d (digitOp s.par.ops e.1) e.2
    have hrun : (digitActions s.par d (e :: rest)).foldl State.act s =
        (digitActions s.par d rest).foldl State.act s1 := by
      simp only [digitActions, List.flatMap_cons, List.foldl_append, foldl_writeDigit s d e.1 e.2 hd hne]
      rfl
    have IH : DigitsWritten s1 ((digitActions s.par d rest).foldl State.act s1) d rest :=
      ih s1 hp hd (fun x hx => h8 x (by simp [hx])) hn.2
        (by simpa [s1, State.afterTransaction] using hl) rfl rfl
    rw [hrun]
    generalize (digitActions s.par d rest).foldl State.act s1 = t at IH
    have nin : ∀ x ∈ rest, x.1 ≠ e.1 := fun x hx hxe => hn.1 (hxe ▸ List.mem_map_of_mem hx)
    have sh : ∀ d' i', i' < 8 → s1.shadowAt d' i' = if d' = d ∧ i' = e.1 then e.2 else s.shadowAt d' i' :=
      fun d' i' hi' => s.shadowAt_setShadow d e.1 e.2 hl hd h8e d' i' hi'
    have dv : ∀ q b, s1.devAt q b = if q = d ∧ b = digitOp s.par.ops e.1 then e.2 else s.devAt q b :=
      fun q b => (s.setShadow d e.1 e.2).devAt_afterTransaction d _ e.2 q b
    refine ⟨onlyDisplay.trans (t := s1) rfl IH.frame, ?_, ?_, ?_, ?_, ?_, by simp, ?_, ?_⟩
    · rw [IH.events]
      simp [s1, State.afterTransaction, digitEvents]
    · intro x hx
      rcases List.mem_cons.mp hx with rfl | hx
      · rw [IH.shadowOut d x.1 h8e (.inr nin), sh d x.1 h8e]
        simp
      · exact IH.shadowIn x hx
    · intro d' i' hi' ho
      rw [IH.shadowOut d' i' hi' (ho.imp_right fun h x hx => h x (by simp [hx])), sh d' i' hi', if_neg]
      rintro ⟨rfl, rfl⟩
      exact ho.elim (· rfl) (· e (by simp) rfl)
    · intro x hx
      rcases List.mem_cons.mp hx with rfl | hx
      · have := IH.devOut d (digitOp s.par.ops x.1)
          (.inr fun y hy h => nin y hy (digitOp_inj hp h8e (h8 y (by simp [hy])) h).symm)
        rw [this, dv]
        simp
      · exact IH.devIn x hx
    · intro q op ho
      rw [IH.devOut q op (ho.imp_right fun h x hx => h x (by simp [hx])), dv, if_neg]
      rintro ⟨rfl, rfl⟩
      exact ho.elim (· rfl) (· e (by simp) rfl)
    · rw [IH.length]
      simp [s1, State.afterTransaction]
    · intro init x hx
      cases init with
      | nil =>
        obtain ⟨rfl, rfl⟩ : e = x ∧ rest = [] := by simpa using hx
        exact IH.none rfl
      | cons y init =>
        obtain ⟨rfl, h⟩ : e = y ∧ rest = init ++ [x] := by simpa using hx
        exact IH.last init x h

theorem digitActions_stops (p : Params) (d : Nat) (pats : List (Nat × Byte)) :
    ∀ a ∈ digitActions p d pats, a.stops = none := by
  intro a ha
  obtain ⟨e, -, he⟩ := List.mem_flatMap.mp ha
  exact writeDigitActions_stops _ _ _ _ a he

/-- The same as a run, from a state that meets the invariant. -/
theorem runActions_digits (pats : List (Nat × Byte)) (d : Nat) (s : State) (hI : s.Inv) (hd : d < s.par.devices)
    (h8 : ∀ e ∈ pats, e.1 < 8) (hn : (pats.map (·.1)).Nodup) :
    ∃ t, runActions (digitActions s.par d pats) s = .next t ∧ DigitsWritten s t d pats :=
  ⟨_, runActions_eq_foldl _ _ (digitActions_stops _ _ _),
    foldl_digitActions pats d s hI.1.2.2.2.2.1 hd h8 hn hI.2.1 hI.2.2.2.2.2.1 hI.2.2.2.2.2.2⟩

/-- The body of CLEAR is eight blank digit writes (rule R181). -/
theorem blankDigitsActions_eq (p : Params) (d : Nat) :
    blankDigitsActions p d = digitActions p d ((List.range 8).map fun i => (i, 0x00)) := by
  simp [blankDigitsActions, digitActions, List.flatMap_map]

/-! ## A frame refresh -/

theorem windowPos_lt {p : Params} (h : paramsWf p) {j : Nat} (hj : j < 8) : windowPos p j < 8 := by
  have hw := h.2.2.2.2.2.2
  have hl : j < p.windowMap.length := by rw [hw.1]; exact hj
  simp only [windowPos, List.getD_eq_getElem?_getD, List.getElem?_eq_getElem hl, Option.getD_some]
  exact hw.2.2 _ (List.getElem_mem hl)

theorem window_eq_some (s : State) (o j : Nat) (h : o + j < s.tlen.toNat → (s.textAt (o + j)).isSome = true) :
    window s o j = some (s.shownAt o j) := by
  simp only [window, State.shownAt]
  split
  · next hlt =>
    obtain ⟨sl, hsl⟩ := Option.isSome_iff_exists.mp (h hlt)
    simp [hsl]
  · rfl

/-- A refresh of a loaded window is a sequence of digit writes (rule R205). -/
theorem refreshActions_eq (s : State) (d o : Nat) (h : s.windowLoaded o) :
    refreshActions s d o = digitActions s.par d (s.frameDigits o) := by
  simp only [refreshActions, State.frameDigits, digitActions, List.flatMap_map]
  apply List.flatMap_congr
  intro j hj
  simp only [slotActions, window_eq_some s o j (h j (by simpa using hj))]

theorem mem_frameDigits {s : State} {o : Nat} {e : Nat × Byte} :
    e ∈ s.frameDigits o ↔ ∃ j < 8, e = (windowPos s.par j, s.shownAt o j) := by
  simp only [State.frameDigits, List.mem_map, List.mem_range]
  exact ⟨fun ⟨j, hj, h⟩ => ⟨j, hj, h.symm⟩, fun ⟨j, hj, h⟩ => ⟨j, hj, h.symm⟩⟩

theorem frameDigits_nodup {s : State} (h : paramsWf s.par) (o : Nat) : ((s.frameDigits o).map (·.1)).Nodup := by
  have hw := h.2.2.2.2.2.2
  have : (s.frameDigits o).map (·.1) = s.par.windowMap := by
    simp only [State.frameDigits, List.map_map]
    apply List.ext_getElem
    · simp [hw.1]
    · intro i h1 h2
      simp [windowPos, List.getD_eq_getElem?_getD, h2]
  rw [this]
  exact hw.2.1

end Sys2Proof.Machine
end

