-- ==== Sys2Proof/Laws/PerInstr.lean ====
section
/-! SUPPORT. Per instruction: the encoding of a well-formed instruction carries the fixed bits of its row of the opcode
table (30_encoding.md rules R82, R99), the wire opcodes at their defaults. -/

namespace Sys2Proof.Laws
open Machine

/-- The fixed bits of a row of the opcode table: a command word or a wire frame, under a mask. -/
inductive TableRow where
  | command (mask value : CommandWord)
  | wire (mask value : WireFrame)
  deriving DecidableEq, Repr

/-- The row's mask and match of every instruction, as spec/opcode_table.json gives them. -/
def tableRow : Instr → TableRow
  | .devcnt => .command 0xF0000000 0x10000000
  | .shutdn _ _ => .command 0xF0000000 0x20000000
  | .scanlim _ _ => .command 0xF0000000 0x30000000
  | .intens _ _ => .command 0xF0000000 0x40000000
  | .clear _ => .command 0xF0000000 0x50000000
  | .setdigit _ _ _ _ => .command 0xF0000000 0x60000000
  | .setchar _ _ _ _ => .command 0xF0000000 0x70000000
  | .init _ => .command 0xF0000000 0x80000000
  | .rdshadow _ _ => .command 0xF0000000 0x90000000
  | .txtwr _ _ _ => .command 0xF0000000 0xA0000000
  | .txtlen _ => .command 0xF0000000 0xB0000000
  | .frame _ _ => .command 0xF0000000 0xC0000000
  | .render _ _ => .command 0xF0000000 0xD0000000
  | .reserved0 => .command 0xF0000000 0x00000000
  | .reservedE => .command 0xF0000000 0xE0000000
  | .reservedF => .command 0xF0000000 0xF0000000
  | .wNoop => .wire 0xFFFF 0x0000
  | .wDigit0 _ => .wire 0xFF00 0x0100
  | .wDigit1 _ => .wire 0xFF00 0x0200
  | .wDigit2 _ => .wire 0xFF00 0x0300
  | .wDigit3 _ => .wire 0xFF00 0x0400
  | .wDigit4 _ => .wire 0xFF00 0x0500
  | .wDigit5 _ => .wire 0xFF00 0x0600
  | .wDigit6 _ => .wire 0xFF00 0x0700
  | .wDigit7 _ => .wire 0xFF00 0x0800
  | .wDecodemode _ => .wire 0xFF00 0x0900
  | .wIntensity _ => .wire 0xFF00 0x0A00
  | .wScanlimit _ => .wire 0xFF00 0x0B00
  | .wShutdown _ => .wire 0xFF00 0x0C00
  | .wDisplaytest _ => .wire 0xFF00 0x0F00

/-- A code carries a row's fixed bits. -/
def matchesRow : Code → TableRow → Prop
  | .command w, .command mask value => w &&& mask = value
  | .wire f, .wire mask value => f &&& mask = value
  | .command _, .wire _ _ => False
  | .wire _, .command _ _ => False

theorem command_mask (w : CommandWord) : w &&& 0xF0000000 = BitVec.ofNat 32 (w.toNat / 2 ^ 28 * 2 ^ 28) := by
  apply BitVec.eq_of_getLsbD_eq
  intro i hi
  have hm : (0xF0000000 : CommandWord).getLsbD i = decide (28 ≤ i) := by revert i; decide
  rw [BitVec.getLsbD_and, hm, BitVec.getLsbD_ofNat, Nat.testBit_mul_two_pow, Nat.testBit_div_two_pow]
  by_cases h28 : 28 ≤ i
  · rw [Nat.sub_add_cancel h28]
    simp [hi, h28, BitVec.getLsbD]
  · simp [h28]

theorem assemble_mask (cop d a b c : Nat) (hc : cop < 16) (hd : d < 16) (ha : a < 256) (hb : b < 256) (hf : c < 256) :
    assemble cop d a b c &&& 0xF0000000 = BitVec.ofNat 32 (cop * 2 ^ 28) := by
  have h : (assemble cop d a b c).toNat / 2 ^ 28 = cop := by
    simp only [assemble, BitVec.toNat_ofNat]
    omega
  rw [command_mask, h]

theorem frame_mask (op data : Byte) : mkFrame op data &&& 0xFF00 = mkFrame op 0 := by
  have h : ∀ i < 16, (0xFF00 : WireFrame).getLsbD i = decide (8 ≤ i) := by decide
  apply BitVec.eq_of_getLsbD_eq
  intro i hi
  simp only [mkFrame, BitVec.getLsbD_and, h i hi, BitVec.getLsbD_append]
  by_cases h8 : 8 ≤ i
  · simp [h8, Nat.not_lt.mpr h8]
  · simp [h8, Nat.lt_of_not_le h8]

theorem toNat_lt_256 (x : Bool) : x.toNat < 256 := by cases x <;> decide

end Sys2Proof.Laws

namespace Sys2Proof.Laws.TableMatch
open Machine

/-- The encoding of a well-formed instruction carries its row's fixed bits. -/
def Statement (i : Instr) : Prop := i.wf = true → matchesRow (encode defaultOps i) (tableRow i)

theorem devcnt : Statement .devcnt := fun _ => assemble_mask 0x1 0 0 0 0 (by decide) (by decide) (by decide) (by decide) (by decide)

theorem shutdn (d : Nat) (on : Bool) : Statement (.shutdn d on) := by
  intro h
  simp only [Instr.wf, fitsAddr, decide_eq_true_eq] at h
  exact assemble_mask 0x2 d 0 0 on.toNat (by decide) h (by decide) (by decide) (toNat_lt_256 _)

theorem scanlim (d : Nat) (limit : Nat) : Statement (.scanlim d limit) := by
  intro h
  simp only [Instr.wf, fitsAddr, fitsByte, Bool.and_eq_true, decide_eq_true_eq] at h
  exact assemble_mask 0x3 d 0 limit 0 (by decide) h.1 (by decide) h.2 (by decide)

theorem intens (d : Nat) (level : Nat) : Statement (.intens d level) := by
  intro h
  simp only [Instr.wf, fitsAddr, fitsByte, Bool.and_eq_true, decide_eq_true_eq] at h
  exact assemble_mask 0x4 d 0 level 0 (by decide) h.1 (by decide) h.2 (by decide)

theorem clear (d : Nat) : Statement (.clear d) := by
  intro h
  simp only [Instr.wf, fitsAddr, decide_eq_true_eq] at h
  exact assemble_mask 0x5 d 0 0 0 (by decide) h (by decide) (by decide) (by decide)

theorem setdigit (d : Nat) (pos : Nat) (val : Nat) (dp : Bool) : Statement (.setdigit d pos val dp) := by
  intro h
  simp only [Instr.wf, fitsAddr, fitsByte, Bool.and_eq_true, decide_eq_true_eq] at h
  exact assemble_mask 0x6 d pos val dp.toNat (by decide) h.1.1 h.1.2 h.2 (toNat_lt_256 _)

theorem setchar (d : Nat) (pos : Nat) (ch : Byte) (dp : Bool) : Statement (.setchar d pos ch dp) := by
  intro h
  simp only [Instr.wf, fitsAddr, fitsByte, Bool.and_eq_true, decide_eq_true_eq] at h
  exact assemble_mask 0x7 d pos ch.toNat dp.toNat (by decide) h.1 h.2 ch.isLt (toNat_lt_256 _)

theorem init (d : Nat) : Statement (.init d) := by
  intro h
  simp only [Instr.wf, fitsAddr, decide_eq_true_eq] at h
  exact assemble_mask 0x8 d 0 0 0 (by decide) h (by decide) (by decide) (by decide)

theorem rdshadow (d : Nat) (pos : Nat) : Statement (.rdshadow d pos) := by
  intro h
  simp only [Instr.wf, fitsAddr, fitsByte, Bool.and_eq_true, decide_eq_true_eq] at h
  exact assemble_mask 0x9 d pos 0 0 (by decide) h.1 h.2 (by decide) (by decide)

theorem txtwr (idx : Nat) (ch : Byte) (dp : Bool) : Statement (.txtwr idx ch dp) := by
  intro h
  simp only [Instr.wf, fitsByte, decide_eq_true_eq] at h
  exact assemble_mask 0xA 0 idx ch.toNat dp.toNat (by decide) (by decide) h ch.isLt (toNat_lt_256 _)

theorem txtlen (len : Nat) : Statement (.txtlen len) := by
  intro h
  simp only [Instr.wf, fitsByte, decide_eq_true_eq] at h
  exact assemble_mask 0xB 0 len 0 0 (by decide) (by decide) h (by decide) (by decide)

theorem frame (d : Nat) (off : Nat) : Statement (.frame d off) := by
  intro h
  simp only [Instr.wf, fitsAddr, fitsByte, Bool.and_eq_true, decide_eq_true_eq] at h
  exact assemble_mask 0xC d off 0 0 (by decide) h.1 h.2 (by decide) (by decide)

theorem render (d : Nat) (dur : Duration) : Statement (.render d dur) := by
  intro h
  simp only [Instr.wf, fitsAddr, decide_eq_true_eq] at h
  exact assemble_mask 0xD d (dur.toNat / 2 ^ 16) (dur.toNat / 2 ^ 8 % 2 ^ 8) (dur.toNat % 2 ^ 8) (by decide) h (by have := dur.isLt; omega) (by omega) (by omega)

theorem reserved0 : Statement .reserved0 := fun _ => assemble_mask 0x0 0 0 0 0 (by decide) (by decide) (by decide) (by decide) (by decide)

theorem reservedE : Statement .reservedE := fun _ => assemble_mask 0xE 0 0 0 0 (by decide) (by decide) (by decide) (by decide) (by decide)

theorem reservedF : Statement .reservedF := fun _ => assemble_mask 0xF 0 0 0 0 (by decide) (by decide) (by decide) (by decide) (by decide)

theorem wNoop : Statement .wNoop := fun _ => show mkFrame opNoop 0 &&& 0xFFFF = (0x0000 : WireFrame) by decide

theorem wDigit0 (data : Byte) : Statement (.wDigit0 data) := fun _ => frame_mask 0x01 data

theorem wDigit1 (data : Byte) : Statement (.wDigit1 data) := fun _ => frame_mask 0x02 data

theorem wDigit2 (data : Byte) : Statement (.wDigit2 data) := fun _ => frame_mask 0x03 data

theorem wDigit3 (data : Byte) : Statement (.wDigit3 data) := fun _ => frame_mask 0x04 data

theorem wDigit4 (data : Byte) : Statement (.wDigit4 data) := fun _ => frame_mask 0x05 data

theorem wDigit5 (data : Byte) : Statement (.wDigit5 data) := fun _ => frame_mask 0x06 data

theorem wDigit6 (data : Byte) : Statement (.wDigit6 data) := fun _ => frame_mask 0x07 data

theorem wDigit7 (data : Byte) : Statement (.wDigit7 data) := fun _ => frame_mask 0x08 data

theorem wDecodemode (data : Byte) : Statement (.wDecodemode data) := fun _ => frame_mask 0x09 data

theorem wIntensity (data : Byte) : Statement (.wIntensity data) := fun _ => frame_mask 0x0A data

theorem wScanlimit (data : Byte) : Statement (.wScanlimit data) := fun _ => frame_mask 0x0B data

theorem wShutdown (data : Byte) : Statement (.wShutdown data) := fun _ => frame_mask 0x0C data

theorem wDisplaytest (data : Byte) : Statement (.wDisplaytest data) := fun _ => frame_mask 0x0F data

end Sys2Proof.Laws.TableMatch
end

