-- ==== Sys2Proof/Laws/Reset.lean ====
section
/-! SUPPORT. The memories of the state after reset, and the defaults of rule R7. -/

namespace Sys2Proof.Machine

/-- The memories list nothing after reset, in canonical form. -/
theorem State.resetWith_mem (p : Params) :
    Mem.wf (State.resetWith p).tbuf ∧ Mem.wf (State.resetWith p).dev ∧ Mem.wf (State.resetWith p).powerUps :=
  ⟨List.Pairwise.nil, List.Pairwise.nil, List.Pairwise.nil⟩

theorem State.reset_mem : Mem.wf State.reset.tbuf ∧ Mem.wf State.reset.dev ∧ Mem.wf State.reset.powerUps :=
  State.resetWith_mem resetParams

theorem defaultOps_wf : opsWf defaultOps := by decide

theorem defaultRom_wf : romWf defaultRom := by decide +kernel

/-- The defaults are admissible for every chain length rule R7 allows. -/
theorem paramsFor_wf (n : Nat) (h1 : 1 ≤ n) (h8 : n ≤ 8) : paramsWf (paramsFor n) :=
  have h : paramsWf (paramsFor 1) :=
    ⟨by decide, by decide, defaultRom_wf, by decide, defaultOps_wf, by decide, by decide⟩
  ⟨⟨h1, h8⟩, h.2⟩

end Sys2Proof.Machine
end

