-- ==== Sys2Proof/Laws/Step.lean ====
section
/-! SUPPORT. What an instruction runs, everything a step can do, and runs of several steps. -/

namespace Sys2Proof.Machine

/-- The actions an instruction runs: a command's, or the one register write of a wire frame. -/
def instrActions (i : Instr) (s : State) : List Action :=
  match i with
  | .wDigit0 data => [.writeReg (digitOp s.par.ops 0) data]
  | .wDigit1 data => [.writeReg (digitOp s.par.ops 1) data]
  | .wDigit2 data => [.writeReg (digitOp s.par.ops 2) data]
  | .wDigit3 data => [.writeReg (digitOp s.par.ops 3) data]
  | .wDigit4 data => [.writeReg (digitOp s.par.ops 4) data]
  | .wDigit5 data => [.writeReg (digitOp s.par.ops 5) data]
  | .wDigit6 data => [.writeReg (digitOp s.par.ops 6) data]
  | .wDigit7 data => [.writeReg (digitOp s.par.ops 7) data]
  | .wDecodemode data => [.writeReg s.par.ops.decodeMode data]
  | .wIntensity data => [.writeReg s.par.ops.intensity data]
  | .wScanlimit data => [.writeReg s.par.ops.scanLimit data]
  | .wShutdown data => [.writeReg s.par.ops.shutdown data]
  | .wDisplaytest data => [.writeReg s.par.ops.displayTest data]
  | i => commandActions i s

/-- Every meaning is a run of actions computed from the state before it. -/
theorem exec_eq_run (i : Instr) (s : State) : exec i s = runActions (instrActions i s) s := by
  cases i <;> rfl

/-- A command word's meaning is a run of `commandActions`. -/
theorem exec_command_eq_run (w : CommandWord) (s : State) :
    exec (decodeCommand w) s = runActions (commandActions (decodeCommand w) s) s := by
  rw [exec_eq_run]
  unfold decodeCommand
  split <;> rfl

/-- A decoded wire frame does nothing, or writes the register its opcode selects. -/
theorem instrActions_of_decodeWire {ops : WireOps} {f : WireFrame} {i : Instr} (h : decodeWire ops f = .ok i)
    (s : State) (hs : s.par.ops = ops) :
    (instrActions i s = [] ∧ i = .wNoop) ∨
      (instrActions i s = [.writeReg (frameOp f) (frameData f)] ∧ frameOp f ≠ opNoop) := by
  subst hs
  rcases decodeWire_cases h with ⟨-, rfl⟩ | ⟨row, hrow, hop, h0, rfl⟩
  · exact .inl ⟨rfl, rfl⟩
  · refine .inr ⟨?_, h0⟩
    simp only [wireRows, List.mem_cons, List.not_mem_nil, or_false] at hrow
    rcases hrow with rfl | rfl | rfl | rfl | rfl | rfl | rfl | rfl | rfl | rfl | rfl | rfl | rfl <;>
      simp only [instrActions, hop]

theorem runThenReset_next {n : Nat} {acts : List Action} {s t : State} (h : runThenReset n acts s = .next t) :
    t = ((acts.take n).foldl State.act s).hardReset := by
  unfold runThenReset at h
  split at h
  · next u hu => cases h; rw [(runActions_next hu).1]
  · cases h
  · cases h

/-- A reset inside actions that read no unwritten slot always answers: the part before it, then reset. -/
theorem runThenReset_eq_foldl (n : Nat) (acts : List Action) (s : State) (h : ∀ a ∈ acts, a.stops = none) :
    runThenReset n acts s = .next ((acts.take n).foldl State.act s).hardReset := by
  simp only [runThenReset, runActions_eq_foldl _ _ fun a ha => h a (List.mem_of_mem_take ha)]

/-- Everything a step that answers a next state can do. -/
inductive StepCase (s t : State) : Prop where
  /-- Nothing but the move consumed, or not even that. -/
  | same (rest : List HostMove) (h : t = { s with host := rest })
  /-- The ready block runs a command. -/
  | command (w : CommandWord) (rest : List HostMove) (hs : s.seq = .idle)
      (h : exec (decodeCommand w) { s with host := rest } = .next t)
  /-- A held RENDER goes on. -/
  | resume (job : ScrollJob) (rest : List HostMove) (hs : s.seq = .waiting job)
      (h : runActions (resumeActions job { s with host := rest }) { s with host := rest } = .next t)
  /-- Reset, after none or some of the actions of a command or of a RENDER that goes on. -/
  | reset (rest : List HostMove) (acts : List Action)
      (hs : acts = [] ∨
        (∃ w n, s.seq = .idle ∧ acts = (commandActions (decodeCommand w) { s with host := rest }).take n) ∨
        ∃ job n, s.seq = .waiting job ∧ acts = (resumeActions job { s with host := rest }).take n)
      (h : t = (acts.foldl State.act { s with host := rest }).hardReset)
  /-- Another agent's transaction. -/
  | foreign (rest : List HostMove) (q : Nat) (f : WireFrame) (acts : List Action) (hq : q < s.par.devices)
      (ha : acts = [] ∨ ∃ op data, op ≠ opNoop ∧ acts = [.writeReg op data])
      (h : t = acts.foldl State.act (({ s with host := rest } : State).shiftForeign q f))
  /-- A device powers up on its own. -/
  | powerUp (rest : List HostMove) (p : Nat) (hp : p < s.par.devices)
      (h : t = ({ s with host := rest } : State).devicePowerUp p)

/-- A step does one of the things listed, and nothing else. -/
theorem step_cases {s t : State} (h : step s = .next t) : StepCase s t := by
  simp only [step, hostStep] at h
  split at h
  · cases h; exact .same s.host rfl
  · next w r _ =>
    split at h
    · next hr => exact .command w r (by simpa [State.ready] using hr) h
    · cases h
  · next r _ =>
    unfold acknowledge at h
    split at h
    · cases h; exact .same r rfl
    · next job hj => exact .resume job r hj h
  · next r _ => cases h; exact .reset r [] (.inl rfl) rfl
  · next w n r _ =>
    split at h
    · next hr => exact .reset r _ (.inr (.inl ⟨w, n, by simpa [State.ready] using hr, rfl⟩)) (runThenReset_next h)
    · cases h
  · next n r _ =>
    unfold acknowledgeThenReset at h
    split at h
    · cases h; exact .reset r [] (.inl rfl) rfl
    · next job hj => exact .reset r _ (.inr (.inr ⟨job, n, hj, rfl⟩)) (runThenReset_next h)
  · next q f r _ =>
    unfold foreignTransaction at h
    split at h
    · next hq =>
      split at h
      · next i hi =>
        rw [exec_eq_run] at h
        have ht := (runActions_next h).1
        rcases instrActions_of_decodeWire hi (({ s with host := r } : State).shiftForeign q f) rfl with ⟨e, -⟩ | ⟨e, h0⟩
        · rw [e] at ht; exact .foreign r q f [] hq (.inl rfl) ht
        · rw [e] at ht; exact .foreign r q f _ hq (.inr ⟨_, _, h0, rfl⟩) ht
      · cases h; exact .foreign r q f [] hq (.inl rfl) rfl
      · cases h
    · cases h; exact .same r rfl
  · cases h
  · next p r _ =>
    split at h
    · next hp => cases h; exact .powerUp r p hp rfl
    · cases h; exact .same r rfl

/-- A run of no step. -/
theorem core_run_zero (s : State) : Host.Core.run core 0 s = .next s := rfl

/-- A run whose first step is known. -/
theorem core_run_succ {k : Nat} {s t : State} (h : step s = .next t) :
    Host.Core.run core (k + 1) s = Host.Core.run core k t := by
  have key : ∀ (M : Host.Core) (s t : M.State), M.step s = .next t → M.run (k + 1) s = M.run k t := by
    intro M s t h
    rw [Host.Core.run, h]
  exact key core s t h

/-- A run that answers a next state does so through the state after its first step. -/
theorem core_run_next {k : Nat} {s t : State} (h : Host.Core.run core (k + 1) s = .next t) :
    ∃ u, step s = .next u ∧ Host.Core.run core k u = .next t := by
  have key : ∀ (M : Host.Core) (s t : M.State), M.run (k + 1) s = .next t →
      ∃ u, M.step s = .next u ∧ M.run k u = .next t := by
    intro M s t h
    rw [Host.Core.run] at h
    cases hs : M.step s with
    | next u => rw [hs] at h; exact ⟨u, rfl, h⟩
    | fault r => rw [hs] at h; cases h
    | refused r => rw [hs] at h; cases h
  exact key core s t h

end Sys2Proof.Machine
end

