-- ==== Sys2Proof/Tests/Slice0.lean ====
section
/-! SUPPORT. Tests of the model's author. Expected values come from the spec: the encodings of rules R82 and R99, the vectors
V2 to V15 of 95_test_vectors.md, the examples of rule R241; `witness_…` theorems show inputs that meet the hypotheses of the
obligations. -/

namespace Sys2Proof.Tests
open Machine

/-! ## Helpers -/

/-- A chain of `n` devices right after reset, all parameters at their defaults. -/
def chain (n : Nat) : State := State.resetWith (paramsFor n)

/-- The text `T9` of vector V8, `'1'` to `'9'`. -/
def t9 : List (Nat × Slot) := (List.range 9).map fun k => (k, { ch := BitVec.ofNat 8 (0x31 + k), dp := false })

/-- One device, `T9` loaded, length `len`. -/
def withT9 (len : Byte) : State := { chain 1 with tbuf := t9, tlen := len }

/-- The state after an instruction, if there is one. -/
def after (i : Instr) (s : State) : Option State :=
  match exec i s with
  | .next t => some t
  | .fault _ => none
  | .refused _ => none

/-- The command a word stands for, run in a state. -/
def run (w : CommandWord) (s : State) : Option State := after (decodeCommand w) s

/-- The coarse trace after a command. -/
def seen (w : CommandWord) (s : State) : Option (List CoarseEvent) := (run w s).map State.coarseTrace

/-- The shadow bank after a command. -/
def shadowAfter (w : CommandWord) (s : State) : Option (List Byte) := (run w s).map (·.shadow)

/-- The commits of one frame each. -/
def commits (fs : List WireFrame) : List CoarseEvent := fs.map fun f => .commit [f]

/-- The next state of a step. -/
def next (s : State) : Option State :=
  match step s with
  | .next t => some t
  | .fault _ => none
  | .refused _ => none

/-! ## Well-formedness: an ill-formed term for each check -/

theorem test_illformed_shutdn_addr : Instr.wf (.shutdn 16 true) = false := by decide
theorem test_illformed_scanlim_addr : Instr.wf (.scanlim 16 1) = false := by decide
theorem test_illformed_scanlim_limit : Instr.wf (.scanlim 0 256) = false := by decide
theorem test_illformed_intens_addr : Instr.wf (.intens 16 0) = false := by decide
theorem test_illformed_intens_level : Instr.wf (.intens 0 256) = false := by decide
theorem test_illformed_clear_addr : Instr.wf (.clear 16) = false := by decide
theorem test_illformed_setdigit_addr : Instr.wf (.setdigit 16 0 0 false) = false := by decide
theorem test_illformed_setdigit_pos : Instr.wf (.setdigit 0 256 0 false) = false := by decide
theorem test_illformed_setdigit_val : Instr.wf (.setdigit 0 0 256 false) = false := by decide
theorem test_illformed_setchar_addr : Instr.wf (.setchar 16 0 0x41 false) = false := by decide
theorem test_illformed_setchar_pos : Instr.wf (.setchar 0 256 0x41 false) = false := by decide
theorem test_illformed_init_addr : Instr.wf (.init 16) = false := by decide
theorem test_illformed_rdshadow_addr : Instr.wf (.rdshadow 16 0) = false := by decide
theorem test_illformed_rdshadow_pos : Instr.wf (.rdshadow 0 256) = false := by decide
theorem test_illformed_txtwr_idx : Instr.wf (.txtwr 256 0x41 false) = false := by decide
theorem test_illformed_txtlen_len : Instr.wf (.txtlen 256) = false := by decide
theorem test_illformed_frame_addr : Instr.wf (.frame 16 0) = false := by decide
theorem test_illformed_frame_off : Instr.wf (.frame 0 256) = false := by decide
theorem test_illformed_render_addr : Instr.wf (.render 16 0) = false := by decide
theorem test_wellformed_largest : Instr.wf (.setdigit 15 255 255 true) = true := by decide

/-! ## Decoding: words written out from the encodings of rules R82 and R99, every field different -/

theorem test_decode_devcnt : decodeTableWord 32 0b00010000000000000000000000000000 = some (.devcnt) := by decide
theorem test_decode_shutdn : decodeTableWord 32 0b00100101000000000000000000000001 = some (.shutdn 5 true) := by decide
theorem test_decode_scanlim : decodeTableWord 32 0b00111001000000000000011100000000 = some (.scanlim 9 7) := by decide
theorem test_decode_intens : decodeTableWord 32 0b01000011000000000000110100000000 = some (.intens 3 13) := by decide
theorem test_decode_clear : decodeTableWord 32 0b01011010000000000000000000000000 = some (.clear 10) := by decide
theorem test_decode_setdigit : decodeTableWord 32 0b01100001000001100000110000000001 = some (.setdigit 1 6 12 true) := by decide
theorem test_decode_setchar : decodeTableWord 32 0b01110010000001010100100000000001 = some (.setchar 2 5 0x48 true) := by decide
theorem test_decode_init : decodeTableWord 32 0b10001100000000000000000000000000 = some (.init 12) := by decide
theorem test_decode_rdshadow : decodeTableWord 32 0b10010110000000110000000000000000 = some (.rdshadow 6 3) := by decide
theorem test_decode_txtwr : decodeTableWord 32 0b10100000000111100100000100000001 = some (.txtwr 30 0x41 true) := by decide
theorem test_decode_txtlen : decodeTableWord 32 0b10110000000111110000000000000000 = some (.txtlen 31) := by decide
theorem test_decode_frame : decodeTableWord 32 0b11000111111111110000000000000000 = some (.frame 7 255) := by decide
theorem test_decode_render : decodeTableWord 32 0b11010100000000010000001000000011 = some (.render 4 0x010203) := by decide
theorem test_decode_reserved0 : decodeTableWord 32 0b00000000000000000000000000000000 = some (.reserved0) := by decide
theorem test_decode_reservedE : decodeTableWord 32 0b11101111111111111111111111111111 = some (.reservedE) := by decide
theorem test_decode_reservedF : decodeTableWord 32 0b11110001001000110100010101100111 = some (.reservedF) := by decide
theorem test_decode_wNoop : decodeTableWord 16 0b0000000000000000 = some .wNoop := by decide
theorem test_decode_wDigit0 : decodeTableWord 16 0b0000000110100101 = some (.wDigit0 0xA5) := by decide
theorem test_decode_wDigit1 : decodeTableWord 16 0b0000001010100101 = some (.wDigit1 0xA5) := by decide
theorem test_decode_wDigit2 : decodeTableWord 16 0b0000001110100101 = some (.wDigit2 0xA5) := by decide
theorem test_decode_wDigit3 : decodeTableWord 16 0b0000010010100101 = some (.wDigit3 0xA5) := by decide
theorem test_decode_wDigit4 : decodeTableWord 16 0b0000010110100101 = some (.wDigit4 0xA5) := by decide
theorem test_decode_wDigit5 : decodeTableWord 16 0b0000011010100101 = some (.wDigit5 0xA5) := by decide
theorem test_decode_wDigit6 : decodeTableWord 16 0b0000011110100101 = some (.wDigit6 0xA5) := by decide
theorem test_decode_wDigit7 : decodeTableWord 16 0b0000100010100101 = some (.wDigit7 0xA5) := by decide
theorem test_decode_wDecodemode : decodeTableWord 16 0b0000100110100101 = some (.wDecodemode 0xA5) := by decide
theorem test_decode_wIntensity : decodeTableWord 16 0b0000101010100101 = some (.wIntensity 0xA5) := by decide
theorem test_decode_wScanlimit : decodeTableWord 16 0b0000101110100101 = some (.wScanlimit 0xA5) := by decide
theorem test_decode_wShutdown : decodeTableWord 16 0b0000110010100101 = some (.wShutdown 0xA5) := by decide
theorem test_decode_wDisplaytest : decodeTableWord 16 0b0000111110100101 = some (.wDisplaytest 0xA5) := by decide
/-- Opcodes outside rule R99's set, and opcode 0 with data, are no rows. -/
theorem test_decode_wire_rejects :
    decodeTableWord 16 0x0D00 = none ∧ decodeTableWord 16 0x0E00 = none ∧ decodeTableWord 16 0x1000 = none ∧
    decodeTableWord 16 0xFF00 = none ∧ decodeTableWord 16 0x0001 = none := by decide

/-- A word and a frame of the table run as the first instruction after reset. -/
theorem test_fetch_command : (next (State.reset.withFetchWord 32 0x10000000)).map (·.rsp) = some 0x01 := by
  decide +kernel

theorem test_fetch_wire :
    (next (State.reset.withFetchWord 16 0x0A0F)).map (fun t => t.devAt 0 0x0A) = some 0x0F := by decide +kernel

/-- The words of vectors V13 and V14 are the words the host assembles. -/
theorem test_encode_program :
    (renderText { wL := 1, wR := 2, mL := 3, mR := 4 } (paramsFor 1) 0 [0x34, 0x32, 0x2E, 0x31, 0x39, 0x35]
      [false, false, true, false, false, false] 1000).map (encode defaultOps) =
    [0xA0003400, 0xA0013201, 0xA0023100, 0xA0033900, 0xA0043500, 0xB0050000, 0xD00003E8].map Code.command := by
  decide +kernel

/-! ## The encoder (vector V3) -/

theorem test_hexGlyph : (List.range 16).map (hexGlyph (paramsFor 1)) =
    [0x7E, 0x30, 0x6D, 0x79, 0x33, 0x5B, 0x5F, 0x70, 0x7F, 0x7B, 0x77, 0x1F, 0x4E, 0x3D, 0x4F, 0x47] := by
  decide +kernel

theorem test_encodeChar :
    [0x20, 0x2D, 0x5F, 0x48, 0x4B, 0x58, 0x80, 0xFF, 0xB0].map (encodeChar (paramsFor 1)) =
    [0x00, 0x01, 0x08, 0x37, 0x37, 0x37, 0x00, 0x00, 0x00] := by decide +kernel

theorem test_mergeDp : mergeDp 0x6D true = 0xED ∧ mergeDp 0x00 true = 0x80 ∧ mergeDp 0x7F true = 0xFF ∧
    mergeDp 0x7F false = 0x7F := by decide

/-- Rule R88: bit 6 drives segment a, bit 0 segment g; `'1'` lights b and c. -/
theorem test_litSegments : litSegments (paramsFor 1) 0x30 = [.c, .b] := by decide

/-! ## The bus (vector V4) -/

theorem test_transaction_events : transactionEvents 2 1 0x0A 0x0F =
    ([false, false, false, false, true, false, true, false, false, false, false, false, true, true, true, true] ++
      List.replicate 16 false).map Event.bit ++ [.latch] := by decide +kernel

theorem test_transaction_first_position : (transactionEvents 8 0 0x0C 0x01).reverse.take 17 =
    .latch :: ([true, false, false, false, false, false, false, false, false, false, true, true, false, false, false,
      false].map Event.bit) := by decide +kernel

/-- The fourth row of V4, from a shift register of ones. -/
theorem test_transaction_replaces :
    let s : State := { chain 3 with sr := List.replicate 48 true }
    let t := (transmitActions s.par 1 0x01 0x37).foldl State.act s
    framesOf 3 t.sr = [0x0000, 0x0137, 0x0000] ∧ t.devAt 1 0x01 = 0x37 ∧ t.dev = [(257, 0x37)] := by decide +kernel

/-- The physical levels of the pins (rule R7's defaults). -/
theorem test_physical_levels :
    (chain 1).clkPhysical = false ∧ (chain 1).latchPhysical = false ∧
    (chain 1).clkRise.clkPhysical = true ∧ (chain 1).latchRise.latchPhysical = true := by decide +kernel

/-! ## Control commands (vector V5, `N` = 2) -/

theorem test_devcnt : [0x10000000, 0x1FFFFFFF].map (fun w => seen w (chain 2)) =
    [some [.resp 0x02],
     some [.resp 0x02]] := by decide +kernel

theorem test_shutdn : [0x20000001, 0x200000FE, 0x22000001].map (fun w => seen w (chain 2)) =
    [some [.commit [0x0C00, 0x0000]],
     some [.commit [0x0C01, 0x0000]],
     some []] := by decide +kernel

theorem test_scanlim : [0x31000400, 0x30000800, 0x30000000, 0x30000900].map (fun w => seen w (chain 2)) =
    [some [.commit [0x0000, 0x0B03]],
     some [.commit [0x0B07, 0x0000]],
     some [],
     some []] := by decide +kernel

theorem test_intens : [0x41000F00, 0x40000000, 0x40001000].map (fun w => seen w (chain 2)) =
    [some [.commit [0x0000, 0x0A0F]],
     some [.commit [0x0A00, 0x0000]],
     some []] := by decide +kernel

theorem test_init : [0x81000000, 0x82000000].map (fun w => seen w (chain 2)) =
    [some [.commit [0x0000, 0x0F00], .commit [0x0000, 0x0900], .commit [0x0000, 0x0100], .commit [0x0000, 0x0200], .commit [0x0000, 0x0300], .commit [0x0000, 0x0400], .commit [0x0000, 0x0500], .commit [0x0000, 0x0600], .commit [0x0000, 0x0700], .commit [0x0000, 0x0800]],
     some []] := by decide +kernel

theorem test_reserved : [0x00000000, 0xE0000000, 0xF1234567, 0xFFFFFFFF].map (fun w => seen w (chain 2)) =
    [some [],
     some [],
     some [],
     some []] := by decide +kernel

/-! ## Digit commands (vector V6, `N` = 1) -/

theorem test_setdigit : [0x60070A01, 0x60000000, 0x60000102, 0x60001000, 0x60080100].map (fun w => seen w (chain 1)) =
    [some (commits [0x08F7]),
     some (commits [0x017E]),
     some (commits [0x0130]),
     some [],
     some []] := by decide +kernel

theorem test_setchar : [0x70002001, 0x7000FF00, 0x70025800, 0x70084100].map (fun w => seen w (chain 1)) =
    [some (commits [0x0180]),
     some (commits [0x0100]),
     some (commits [0x0337]),
     some []] := by decide +kernel

theorem test_clear : [0x50000000, 0x51000000].map (fun w => seen w (chain 1)) =
    [some (commits [0x0100, 0x0200, 0x0300, 0x0400, 0x0500, 0x0600, 0x0700, 0x0800]),
     some []] := by decide +kernel

theorem test_rdshadow_out : [0x90080000, 0x99000000].map (fun w => seen w (chain 1)) =
    [some [.resp 0x00],
     some [.resp 0x00]] := by decide +kernel

theorem test_setdigit_shadow : shadowAfter 0x60030F00 (chain 1) = some [0, 0, 0, 0x47, 0, 0, 0, 0] := by decide +kernel

theorem test_rdshadow : seen 0x90040000 { chain 1 with shadow := [1, 2, 3, 4, 0xFF, 6, 7, 8] } = some [.resp 0xFF] := by
  decide +kernel

/-! ## Text, frames and scrolls (vectors V7 and V8) -/

theorem test_txtwr_highest :
    (run 0xAF1E4101 (chain 1)).map (·.tbuf) = some [(30, { ch := 0x41, dp := true })] ∧
    (run 0xA01F4100 (chain 1)).map (·.tbuf) = some [] := by decide +kernel

theorem test_txtlen : (run 0xB01F0000 (chain 1)).map (·.tlen) = some 31 ∧
    (run 0xB0200000 (withT9 9)).map (·.tlen) = some 9 := by decide +kernel

theorem test_frame : seen 0xC0010000 (withT9 9) =
    some (commits [0x016D, 0x0279, 0x0333, 0x045B, 0x055F, 0x0670, 0x077F, 0x087B]) := by decide +kernel

theorem test_frame_end : shadowAfter 0xC0FF0000 (withT9 9) = some [0, 0, 0, 0, 0, 0, 0, 0] := by decide +kernel

theorem test_render_static : seen 0xD0000190 (withT9 8) =
    some (commits [0x0130, 0x026D, 0x0379, 0x0433, 0x055B, 0x065F, 0x0770, 0x087F] ++ [.waitReq 400]) := by
  decide +kernel

theorem test_render_scroll : (run 0xD0000190 (withT9 9)).map (fun t => (t.waitReq, t.waitMs, t.seq)) =
    some (true, 50, .waiting { d := 0, k := 1, frames := 10, ms := 50 }) := by decide +kernel

/-- Frame 1 of the scroll of V8: the window shifted by one position, then the same wait. -/
theorem test_ack : (next { withT9 9 with
      seq := .waiting { d := 0, k := 1, frames := 10, ms := 50 }, waitReq := true, waitMs := 50, host := [.ack] }).map
      State.coarseTrace =
    some (commits [0x016D, 0x0279, 0x0333, 0x045B, 0x055F, 0x0670, 0x077F, 0x087B] ++ [.waitReq 50]) := by
  decide +kernel

/-! ## The normalizer (rule R241, vector V9) -/

/-- Sample half-glyph codes. -/
def half : HalfGlyphs := { wL := 0x01, wR := 0x02, mL := 0x03, mR := 0x04 }

theorem test_normalize_source : normalize half [0x34, 0x32, 0x2E, 0x31, 0x39, 0x35]
      [false, false, true, false, false, false] 32 =
    [⟨0x34, false⟩, ⟨0x32, true⟩, ⟨0x31, false⟩, ⟨0x39, false⟩, ⟨0x35, false⟩] := by decide

theorem test_normalize_cut : normalize half [0x41, 0x42, 0x43, 0x3F, 0x44, 0x3F] [] 4 =
    [⟨0x41, false⟩, ⟨0x42, false⟩, ⟨0x43, true⟩] ∧ normalize half [0x57] [] 2 = [⟨0x01, false⟩] := by decide

theorem test_normalize_marks : normalize half [0x4D, 0x3F] [] 32 = [⟨0x03, false⟩, ⟨0x04, true⟩] ∧
    normalize half [0x57] [true] 32 = [⟨0x01, false⟩, ⟨0x02, false⟩] ∧
    normalize half [0x3F, 0x41] [] 32 = [⟨0x41, false⟩] ∧ normalize half [0x41, 0x42] [false, true] 32 = [⟨0x41, true⟩] := by
  decide

/-! ## Reset (vectors V10 and V15) -/

theorem test_reset_keeps_chain :
    (next { withT9 9 with
      shadow := List.replicate 8 0xFF, dev := [(0x04, 0xB0)], trace := [.latch], host := [.reset] }).map
      (fun t => (t.shadow, t.tlen, t.devAt 0 0x04, t.trace, t.earlier)) =
    some (List.replicate 8 0x00, 0, 0xB0, [], [.latch]) := by decide +kernel

/-- A reset after the fortieth bit of a transaction of three devices: forty bits and no latch, and the coarse view keeps
them. -/
theorem test_reset_inside : (next { chain 3 with host := [.commandThenReset 0x41000F00 160] }).map
    (fun t => (t.outputTrace.length, transactions t.outputTrace, t.dev, t.coarseTrace.length)) = some (40, 0, [], 40) := by
  decide +kernel

/-- A reset between a clock edge and its event, and between the latch edge and its event (rules R134, R293): the bit is in the
chain, the register is committed, and no event tells. -/
theorem test_reset_inside_pulse :
    (next { chain 1 with sr := List.replicate 16 true, host := [.commandThenReset 0x40000F00 2] }).map
      (fun t => (t.sr, t.outputTrace, t.clkPin)) = some (false :: List.replicate 15 true, [], .idle) ∧
    (next { chain 1 with host := [.commandThenReset 0x40000F00 65] }).map
      (fun t => (t.dev, transactions t.outputTrace, t.latchPin)) = some ([(0x0A, 0x0F)], 0, .inactive) := by decide +kernel

/-- The coarse view (rule R33): loose bits before a whole run, before a response, and a latch after too few bits stay. -/
theorem test_coarse : coarseFrom 1 [] (.bit true :: transactionEvents 1 0 0x0A 0x0F ++ [.bit false, .resp 0x05]) =
      [.bit true, .commit [0x0A0F], .bit false, .resp 0x05] ∧
    coarseFrom 1 [] [.bit true, .bit false, .latch, .bit true] = [.bit true, .bit false, .latch, .bit true] := by
  decide +kernel

/-! ## A device that powers up on its own, a command at a busy block (rules R299, R300) -/

theorem test_device_power_up :
    (next { chain 2 with dev := [(0x04, 0x01), (256 + 0x04, 0x02)], host := [.devicePowerUp 1] }).map
      (fun t => (t.dev, t.powerUps, t.shadow, t.trace)) =
    some ([(0x04, 0x01)], [(1, 1)], List.replicate 16 0x00, []) := by decide +kernel

theorem test_busy_command : step { chain 1 with
      seq := .waiting { d := 0, k := 1, frames := 1, ms := 50 }, waitReq := true, host := [.command 0x10000000, .ack] } =
    .refused .commandWhileBusy := by rfl

/-! ## Wire frames -/

theorem test_wire_register : (after (.wScanlimit 0x07) { chain 3 with pos := 1 }).map
    (fun t => (t.dev, t.shadow, t.trace)) = some ([(256 + 0x0B, 0x07)], List.replicate 24 0x00, []) := by decide +kernel

theorem test_foreign_unknown : step { chain 1 with host := [.wire 0 0x0D00] } = .refused (.unknownWireOpcode 0x0D) := by
  rfl

theorem test_foreign_noop_data : (next { chain 1 with host := [.wire 0 0x00FF] }).map (·.dev) = some [] := by decide +kernel

theorem test_stray_pulse : step { chain 1 with host := [.strayPulse] } = .refused .disturbedTransaction := by rfl

/-! ## Witnesses: inputs that meet the hypotheses of the obligations -/

theorem witness_ops : opsWf defaultOps ∧ Instr.wf (.setdigit 15 255 255 true) = true := ⟨defaultOps_wf, by decide⟩

/-- `DecodedFramesEncodeBack`, `DecodedInstructionsAreWellFormed`: a row with data and the no-op frame. -/
theorem witness_decoded : (match decodeWire defaultOps 0x0FFF with
    | .ok i => some i
    | .error _ => none) = some (.wDisplaytest 0xFF) ∧ (match decodeWire defaultOps 0x0000 with
    | .ok i => some i
    | .error _ => none) = some .wNoop := by decide

/-- `UnusedCommandBitsAreIgnored`: two different words, equal on the used bits. -/
theorem witness_unused_bits : (0x200000FE : CommandWord) ≠ 0x20000000 ∧
    (0x200000FE : CommandWord) &&& usedMask (cmdField 0x200000FE 28 4) =
      (0x20000000 : CommandWord) &&& usedMask (cmdField 0x20000000 28 4) := by decide

/-- `EncodeIsTableOrBlank`: the boundary codes of both clauses. -/
theorem witness_codes : 128 ≤ (0x80 : Byte).toNat ∧ 128 ≤ (0xFF : Byte).toNat ∧ (0x7F : Byte).toNat < 128 ∧
    (0x00 : Byte).toNat < 128 := by decide

/-- `EncodedGlyphsHaveNoDecimalPoint`, `HexGlyphsAreLitAndDistinct`, `ResetMeetsInvariant`: the shortest and longest chain. -/
theorem witness_params : paramsWf (paramsFor 1) ∧ paramsWf (paramsFor 8) :=
  ⟨paramsFor_wf 1 (by decide) (by decide), paramsFor_wf 8 (by decide) (by decide)⟩

/-- `ShiftedVectorReplacesRegister`: one and eight devices, the last bit of a frame, the last frame of a vector. -/
theorem witness_shift : (0 < (chain 1).par.devices ∧ (chain 1).sr.length = 16 * (chain 1).par.devices) ∧
    (0 < (chain 8).par.devices ∧ (chain 8).sr.length = 16 * (chain 8).par.devices) ∧ (15 < 16) ∧
    7 < (frameVector 8 7 (mkFrame 0x0C 0x01)).length := by decide +kernel

/-- `TransactionHasOneNonZeroFrame`: both ends of the chain, a frame whose data byte is 0. -/
theorem witness_transaction : (0 < 1 ∧ mkFrame 0x01 0x00 ≠ 0) ∧ (7 < 8 ∧ mkFrame 0x0F 0xFF ≠ 0) ∧
    opsWf defaultOps ∧ 0x01 ∈ allOps defaultOps ∧ 0x0F ∈ allOps defaultOps := by decide

theorem witness_devcnt_word : cmdField 0x1FFFFFFF 28 4 = 0x1 ∧ cmdField 0x10000000 28 4 = 0x1 := by decide

/-- The invariant and the device address of the control, digit and text statements, at both ends of the chain. -/
theorem witness_inv : (chain 1).Inv ∧ 0 < (chain 1).par.devices ∧ (chain 8).Inv ∧ 7 < (chain 8).par.devices :=
  ⟨by decide +kernel, by decide, by decide +kernel, by decide⟩

/-- The operand ranges of those statements at their ends. -/
theorem witness_ranges : (1 ≤ 1 ∧ 1 ≤ 8) ∧ (1 ≤ 8 ∧ 8 ≤ 8) ∧ (0 ≤ 15 ∧ 15 ≤ 15) ∧ (0 ≤ 7 ∧ 7 ≤ 7) := by decide

/-- `OutOfRangeCommandsAreIgnored`: the first value outside every range. -/
theorem witness_out_of_range : (chain 8).par.devices ≤ 8 ∧ (0 = 0 ∨ 8 < 0) ∧ (9 = 0 ∨ 8 < 9) ∧ 15 < 16 ∧ 7 < 8 ∧
    (chain 1).par.cap < 31 + 2 ∧ (1 ≤ (chain 1).par.cap ∧ (chain 1).par.cap - 1 < 32) := by decide

theorem witness_reserved_words : cmdField 0x0FFFFFFF 28 4 ∈ [0x0, 0xE, 0xF] ∧
    cmdField 0xE0000000 28 4 ∈ [0x0, 0xE, 0xF] ∧ cmdField 0xFFFFFFFF 28 4 ∈ [0x0, 0xE, 0xF] := by decide

/-- `RdshadowAlwaysResponds`: the last shadow register; the first device and the first position out of range. -/
theorem witness_rdshadow : (7 < (chain 8).par.devices ∧ 7 ≤ 7) ∧ ((chain 8).par.devices ≤ 8 ∨ 7 < 0) ∧
    ((chain 8).par.devices ≤ 0 ∨ 7 < 8) ∧ cmdField 0x90080000 28 4 = 0x9 := by decide

/-- `OnlyDigitWritersChangeShadow`: a SETDIGIT changes a register. -/
theorem witness_shadow_changes : ∃ t, exec (.setdigit 0 0 0 false) (chain 1) = .next t ∧ t.shadow ≠ (chain 1).shadow :=
  ⟨_, rfl, by decide +kernel⟩

/-- `TxtwrStoresOneSlot`, `TxtlenSetsLength`: the highest writable slot, the longest text. -/
theorem witness_text : 30 + 2 ≤ (chain 1).par.cap ∧ 31 ≤ (chain 1).par.cap - 1 ∧ Mem.wf (chain 1).tbuf := by decide

/-- `OnlyTextCommandsChangeText`: TXTWR changes the buffer, TXTLEN the length. -/
theorem witness_text_changes : (∃ t, exec (.txtwr 0 0x41 false) (chain 1) = .next t ∧ t.tbuf ≠ (chain 1).tbuf) ∧
    ∃ t, exec (.txtlen 5) (chain 1) = .next t ∧ t.tlen ≠ (chain 1).tlen :=
  ⟨⟨_, rfl, by decide⟩, ⟨_, rfl, by decide⟩⟩

theorem loaded_t9 (len : Byte) (h : len.toNat ≤ 9) : (withT9 len).TextLoaded := by
  have key : ∀ k < 9, ((withT9 0).textAt k).isSome = true := by decide
  intro k hk
  exact key k (Nat.lt_of_lt_of_le hk h)

/-- `FrameShowsWindow`, `RenderShowsShortTextOnce`, `RenderStartsScroll`, `EveryInstructionCompletes`: eight and nine
characters, loaded; the first and the last offset. -/
theorem witness_loaded : (withT9 8).Inv ∧ (withT9 9).Inv ∧ 0 < (withT9 9).par.devices ∧
    (withT9 8).tlen.toNat ≤ 8 ∧ 8 < (withT9 9).tlen.toNat :=
  ⟨by decide +kernel, by decide +kernel, by decide, by decide, by decide⟩

theorem witness_window : (withT9 8).windowLoaded 0 ∧ (withT9 9).windowLoaded 0 ∧ (withT9 9).windowLoaded 255 ∧
    (withT9 9).TextLoaded :=
  ⟨fun _ _ h => loaded_t9 8 (by decide) _ h, fun _ _ h => loaded_t9 9 (by decide) _ h,
    fun _ _ h => loaded_t9 9 (by decide) _ h, loaded_t9 9 (by decide)⟩

/-- A scroll of ten frames held in the wait after frame `k - 1`. -/
def held (k : Nat) : State :=
  { withT9 9 with
    seq := .waiting { d := 0, k := k, frames := 10, ms := 50 }
    waitReq := true
    waitMs := 50
    host := [.ack] }

/-- `AcknowledgeContinuesRender`: a scroll before its last frame and after it, and a static frame's wait. -/
theorem witness_held : (held 1).Inv ∧ (held 9).Inv ∧ (held 10).Inv ∧
    State.Inv { withT9 8 with
      seq := .waiting { d := 0, k := 1, frames := 1, ms := 400 }, waitReq := true, waitMs := 400, host := [.ack] } :=
  ⟨by decide +kernel, by decide +kernel, by decide +kernel, by decide +kernel⟩

theorem witness_held_window : (held 9).windowLoaded 9 ∧ (held 1).windowLoaded 1 :=
  ⟨fun _ _ h => loaded_t9 9 (by decide) _ h, fun _ _ h => loaded_t9 9 (by decide) _ h⟩

/-- A RENDER presented to a ready block with its ten acknowledgements. -/
def scrolled : State := { withT9 9 with host := .command 0xD0000190 :: List.replicate 10 .ack }

/-- `AcknowledgedRenderShowsEveryFrame`, `StepRunsPresentedCommand`. -/
theorem witness_scrolled : scrolled.Inv ∧ scrolled.seq = .idle ∧ 0 < scrolled.par.devices ∧
    decodeCommand 0xD0000190 = .render 0 400 ∧
    scrolled.host = .command 0xD0000190 ::
      (List.replicate (renderFrames scrolled.par scrolled.tlen.toNat) .ack ++ []) := by decide +kernel

theorem witness_scrolled_loaded : scrolled.TextLoaded := loaded_t9 9 (by decide)

/-- A RENDER of eight characters with its one acknowledgement. -/
def short : State := { withT9 8 with host := [.command 0xD0000190, .ack] }

/-- The scroll again, without a wait after its last frame. -/
def unsuspended : State := { scrolled with par := { paramsFor 1 with suspendAfterLast := false } }

/-- `AcknowledgedRenderShowsEveryFrame`: at most eight characters; `SUSPEND_AFTER_LAST` false. -/
theorem witness_short : short.Inv ∧ short.seq = .idle ∧ 0 < short.par.devices ∧ short.tlen.toNat ≤ 8 ∧
    short.host = .command 0xD0000190 :: (List.replicate (renderFrames short.par short.tlen.toNat) .ack ++ []) := by
  decide +kernel

theorem witness_unsuspended : unsuspended.Inv ∧ unsuspended.seq = .idle ∧ 0 < unsuspended.par.devices ∧
    8 < unsuspended.tlen.toNat ∧ unsuspended.par.suspendAfterLast = false ∧
    unsuspended.host = .command 0xD0000190 ::
      (List.replicate (renderFrames unsuspended.par unsuspended.tlen.toNat) .ack ++ []) := by decide +kernel

theorem witness_short_loaded : short.TextLoaded ∧ unsuspended.TextLoaded :=
  ⟨loaded_t9 8 (by decide), loaded_t9 9 (by decide)⟩

/-- `UnwrittenSlotIsRefused`: three slots written, nine asked for. -/
theorem witness_unwritten : let s : State := { chain 1 with tbuf := t9.take 3, tlen := 9 }
    0 < s.par.devices ∧ 3 < 8 ∧ 0 + 3 < s.tlen.toNat ∧ s.textAt (0 + 3) = none ∧
    ∀ k < 3, (s.textAt (0 + k)).isSome = true := by decide +kernel

/-- `WireFramesWriteOneRegister`: the first and the last pair of the list. -/
theorem witness_wire : (Instr.wDigit0 0x01, (0x01 : Byte)) ∈ wireWrites (chain 1).par.ops 0x01 ∧
    (Instr.wDisplaytest 0x01, (0x0F : Byte)) ∈ wireWrites (chain 1).par.ops 0x01 := by decide

/-- `DevicePowerUpBypassesBlock`: the far end of a chain of eight. -/
theorem witness_device_power_up : let s : State := { chain 8 with host := [.devicePowerUp 7] }
    s.Inv ∧ 7 < s.par.devices ∧ s.host = [.devicePowerUp 7] := by decide +kernel

/-- `RefreshRestoresAgreement`: each of the six commands completes on the last device. -/
theorem witness_refresh : (chain 8).Inv ∧ 7 < (chain 8).par.devices ∧ 7 ≤ 7 ∧ 15 ≤ 15 ∧
    ∀ i ∈ [Instr.clear 7, .init 7, .frame 7 0, .render 7 400, .setdigit 7 7 15 true, .setchar 7 7 0x41 true],
      (after i (chain 8)).isSome = true := by decide +kernel

/-- `CoarseTraceLosesNothing`: both ends of a chain. -/
theorem witness_coarse : 0 < (chain 1).par.devices ∧ 7 < (chain 8).par.devices := by decide

/-- `ForeignTransactionBypassesShadow`, `StepRunsWireFrame`: a foreign frame at the far end of a chain of eight. -/
theorem witness_foreign : let s : State := { chain 8 with host := [.wire 7 0x08FF] }
    0 < s.par.devices ∧ 7 < s.par.devices ∧ s.host = [.wire 7 0x08FF] ∧
    decode s.par.ops (.wire 0x08FF) = .ok (.wDigit7 0xFF) ∧ ∃ t, step s = .next t :=
  ⟨by decide, by decide, rfl, rfl, _, rfl⟩

/-- The scroll held after its first frame, next move `m`. -/
def busy (m : HostMove) : State := { held 1 with host := [m] }

/-- `ResetInsideCommandAbandonsIt`, `ResetInsideTransactionCommitsNothing`: a ready chain of three whose next move is `m`. -/
def cut (m : HostMove) : State := { chain 3 with host := [m] }

/-- `StepRunsPresentedCommand`, `HeldBlockWaitsForHost`: a command, alone and with a reset inside, at a busy block, an idle block
with an acknowledgement, a block without moves. -/
theorem witness_busy : (∃ job, (busy (.command 0x10000000)).seq = .waiting job) ∧
    (busy (.command 0x10000000)).host = [.command 0x10000000] ∧
    (∃ job, (busy (.commandThenReset 0x10000000 1)).seq = .waiting job) ∧
    (busy (.commandThenReset 0x10000000 1)).host = [.commandThenReset 0x10000000 1] ∧
    (cut .ack).seq = .idle ∧ (cut .ack).host = [.ack] ∧ (chain 1).host = [] :=
  ⟨⟨_, rfl⟩, rfl, ⟨_, rfl⟩, rfl, rfl, rfl, rfl⟩

theorem witness_reset_move : State.host { chain 1 with host := [.reset] } = .reset :: [] := rfl

theorem chain3_inv : (chain 3).Inv := by decide +kernel

theorem cut_ok (m : HostMove) : (cut m).Inv ∧ (cut m).TextLoaded ∧ (cut m).seq = .idle ∧ (cut m).host = [m] :=
  ⟨chain3_inv, fun _ h => absurd h (Nat.not_lt_zero _), rfl, rfl⟩

/-- The first two clauses: nothing and all 48 bits done, a SHUTDN of the last device. -/
theorem witness_reset_inside : 2 < (chain 3).par.devices ∧ 0 ≤ 64 * (chain 3).par.devices ∧
    192 ≤ 64 * (chain 3).par.devices ∧ decodeCommand 0x22000001 = .shutdn 2 true := by decide

/-- The held scroll, a reset inside its second frame; nothing and all bits of the first transaction done. -/
theorem witness_reset_inside_scroll (m : HostMove) : (busy m).Inv ∧ (busy m).TextLoaded ∧ (busy m).host = [m] ∧
    (∃ job, (busy m).seq = .waiting job ∧ job.k < job.frames) ∧
    0 ≤ 64 * (busy m).par.devices + 2 ∧ 66 ≤ 64 * (busy m).par.devices + 2 :=
  ⟨witness_held.1, loaded_t9 9 (by decide), rfl, ⟨_, rfl, by decide⟩, Nat.zero_le _, Nat.le_refl _⟩

/-- `StepKeepsInvariant`, `ShadowBankMirrorsWire`, `StepKeepsResponsePort`, `StepKeepsParameters`, `StepOnlyAppendsToTrace`,
`CommandsMakeTheirTransactions`: a SETDIGIT at the ready block, shadow mirror and response port as after reset. -/
def presented : State := { chain 1 with host := [.command 0x60000000] }

theorem witness_step : presented.Inv ∧ presented.RspOk ∧ (next presented).isSome = true := by decide +kernel

theorem witness_mirror : presented.Mirror := by
  have key : ∀ d < 1, ∀ i < 8, presented.shadowAt d i = (lastSent 1 d (digitOp defaultOps i) []).getD 0x00 := by decide
  exact key

/-- `ShadowBankMirrorsWire`, second clause: a run of one step from reset. -/
theorem witness_run : paramsWf (paramsFor 1) ∧
    ∃ t, Host.Core.run core 1 { State.resetWith (paramsFor 1) with host := [.command 0x60000000] } = .next t :=
  ⟨paramsFor_wf 1 (by decide) (by decide), _, rfl⟩

theorem witness_response : let s : State := { chain 1 with rsp := 0x01, rspValid := true, trace := [.resp 0x01] }
    s.RspOk := by decide +kernel

theorem witness_transactions : ∃ t, exec (.setdigit 0 0 0 false) (chain 1) = .next t := ⟨_, rfl⟩

/-- `NormalizeIsFixedPointIffNoFlag`: admissible half-glyph codes, no smaller a capacity; a text with no flag after the first pass,
and one with a flag. -/
theorem witness_normalize : halfWf half ∧ 32 ≤ 32 ∧ ∀ x ∈ normalize half [0x6B, 0x57, 0x68] [] 32, x.dp = false := by
  decide

theorem witness_normalize_flagged : halfWf half ∧ ¬ ∀ x ∈ normalize half [0x41, 0x3F] [] 32, x.dp = false := by decide

end Sys2Proof.Tests
end

/-! # Proofs of the family 10_state: what a command's actions are, what every step keeps, and the output trace -/

namespace Sys2Proof.Machine

/-! ## The range checks as propositions (rule R95) -/

@[simp] theorem devOk_iff {p : Params} {d : Nat} : devOk p d = true ↔ d < p.devices := by simp [devOk]

@[simp] theorem posOk_iff {i : Nat} : posOk i = true ↔ i ≤ 7 := by simp [posOk]

@[simp] theorem idxOk_iff {p : Params} {k : Nat} : idxOk p k = true ↔ k + 2 ≤ p.cap := by simp [idxOk]; omega

@[simp] theorem lenOk_iff {p : Params} {n : Nat} : lenOk p n = true ↔ n ≤ p.cap - 1 := by simp [lenOk]

/-! ## What a command's actions are -/

/-- The wire opcodes of the control registers. -/
abbrev controlOps (ops : WireOps) : List Byte :=
  [ops.decodeMode, ops.intensity, ops.scanLimit, ops.shutdown, ops.displayTest]

theorem controlOps_ne_noop {ops : WireOps} (h : opsWf ops) {op : Byte} (hop : op ∈ controlOps ops) : op ≠ opNoop :=
  op_ne_noop h (List.mem_append_right _ hop)

/-- Actions that are digit writes and control transactions to devices of the chain, and refused reads. That the digit
exists is owed only under admissible parameters, because the window map may name any. -/
inductive Transfers (p : Params) : List Action → Prop
  | nil : Transfers p []
  | digit {d i : Nat} (pat : Byte) (hd : d < p.devices) (hi : paramsWf p → i < 8) :
      Transfers p (writeDigitActions p d i pat)
  | control {d : Nat} {op : Byte} (data : Byte) (hd : d < p.devices) (hop : op ∈ controlOps p.ops) :
      Transfers p (transmitActions p d op data)
  | unwritten (k : Nat) : Transfers p [.readUnwritten k]
  | append {as bs : List Action} (ha : Transfers p as) (hb : Transfers p bs) : Transfers p (as ++ bs)

theorem Transfers.flatMap {p : Params} {α : Type} {f : α → List Action} {l : List α}
    (h : ∀ x ∈ l, Transfers p (f x)) : Transfers p (l.flatMap f) := by
  induction l with
  | nil => exact .nil
  | cons x xs ih => exact .append (h x (by simp)) (ih fun y hy => h y (by simp [hy]))

theorem blankDigitsActions_transfers {p : Params} {d : Nat} (hd : d < p.devices) :
    Transfers p (blankDigitsActions p d) :=
  .flatMap fun _ hi => .digit _ hd fun _ => List.mem_range.mp hi

theorem refreshActions_transfers {s : State} {d : Nat} (hd : d < s.par.devices) (o : Nat) :
    Transfers s.par (refreshActions s d o) := by
  refine .flatMap fun j hj => ?_
  unfold slotActions
  split
  · exact .digit _ hd fun hp => windowPos_lt hp (List.mem_range.mp hj)
  · exact .unwritten _

/-- What a RENDER may wait with: a job inside the frames of a text of length `len`, on an existing device (rules R206,
R213). -/
def ScrollJob.Fits (job : ScrollJob) (p : Params) (len : Nat) : Prop :=
  job.d < p.devices ∧ 1 ≤ job.k ∧ job.k ≤ job.frames ∧ job.frames = renderFrames p len

/-- Transfers, and perhaps a wait request after them. -/
inductive Shows (p : Params) (len : Nat) : List Action → Prop
  | done {acts : List Action} (h : Transfers p acts) : Shows p len acts
  | wait {acts : List Action} {job : ScrollJob} (h : Transfers p acts) (hj : job.Fits p len) :
      Shows p len (acts ++ [.request job.ms job])

theorem scrollFrameActions_shows {s : State} {job : ScrollJob} (hd : job.d < s.par.devices) (hk : job.k < job.frames)
    (hf : job.frames = renderFrames s.par s.tlen.toNat) :
    Shows s.par s.tlen.toNat (scrollFrameActions s job) := by
  unfold scrollFrameActions
  split
  · exact .wait (job := { job with k := job.k + 1 }) (refreshActions_transfers hd _)
      ⟨hd, Nat.succ_pos _, hk, hf⟩
  · rw [List.append_nil]
    exact .done (refreshActions_transfers hd _)

theorem actsRender_shows {s : State} {d : Nat} (hd : d < s.par.devices) (dur : Duration) :
    Shows s.par s.tlen.toNat (actsRender d dur s) := by
  simp only [actsRender, devOk_iff, hd, if_true]
  split
  · next hl =>
    exact .wait (job := { d := d, k := 1, frames := 1, ms := dur }) (refreshActions_transfers hd 0)
      ⟨hd, Nat.le_refl _, Nat.le_refl _, by simp [renderFrames, hl]⟩
  · next hl => exact scrollFrameActions_shows hd (by simp [frameCount]) (by simp [renderFrames, hl])

/-- The instructions that write the shadow bank. -/
def WritesDigits (i : Instr) : Prop :=
  (∃ d, i = .clear d) ∨ (∃ d pos val dp, i = .setdigit d pos val dp) ∨ (∃ d pos ch dp, i = .setchar d pos ch dp) ∨
    (∃ d, i = .init d) ∨ (∃ d off, i = .frame d off) ∨ ∃ d dur, i = .render d dur

/-- Everything the actions of a command can be. -/
inductive CommandCase (i : Instr) (s : State) : List Action → Prop
  | ignore : CommandCase i s ignoreActions
  | respond (v : Byte) : CommandCase i s [.respond v]
  | control {d : Nat} {op : Byte} (data : Byte) (hd : d < s.par.devices) (hop : op ∈ controlOps s.par.ops) :
      CommandCase i s (transmitActions s.par d op data)
  | shows {acts : List Action} (hi : WritesDigits i) (h : Shows s.par s.tlen.toNat acts) : CommandCase i s acts
  | text {k : Nat} {ch : Byte} {dp : Bool} (hi : i = .txtwr k ch dp) (hk : k + 2 ≤ s.par.cap) :
      CommandCase i s [.writeText k { ch := ch, dp := dp }]
  | len {n : Nat} (hi : i = .txtlen n) (hn : n ≤ s.par.cap - 1) : CommandCase i s [.writeLen (BitVec.ofNat 8 n)]

/-- A range check before a command's actions: out of range the command is ignored (rules R95, R261). -/
theorem CommandCase.ite {i : Instr} {s : State} {acts : List Action} {c : Bool}
    (h : c = true → CommandCase i s acts) : CommandCase i s (if c then acts else ignoreActions) := by
  cases c with
  | true => exact h rfl
  | false => exact .ignore

/-- The actions of every instruction, told once. -/
theorem commandCase (i : Instr) (s : State) : CommandCase i s (commandActions i s) := by
  cases i with
  | devcnt => exact .respond _
  | shutdn d on => exact .ite fun h => .control _ (devOk_iff.mp h) (by simp)
  | scanlim d limit =>
    refine .ite fun h => ?_
    simp only [Bool.and_eq_true, devOk_iff] at h
    exact .control _ h.1 (by simp)
  | intens d level =>
    refine .ite fun h => ?_
    simp only [Bool.and_eq_true, devOk_iff] at h
    exact .control _ h.1 (by simp)
  | clear d => exact .ite fun h => .shows (.inl ⟨d, rfl⟩) (.done (blankDigitsActions_transfers (devOk_iff.mp h)))
  | setdigit d pos val dp =>
    refine .ite fun h => ?_
    simp only [Bool.and_eq_true, devOk_iff, posOk_iff] at h
    exact .shows (.inr (.inl ⟨d, pos, val, dp, rfl⟩)) (.done (.digit _ h.1.1 fun _ => Nat.lt_succ_of_le h.1.2))
  | setchar d pos ch dp =>
    refine .ite fun h => ?_
    simp only [Bool.and_eq_true, devOk_iff, posOk_iff] at h
    exact .shows (.inr (.inr (.inl ⟨d, pos, ch, dp, rfl⟩))) (.done (.digit _ h.1 fun _ => Nat.lt_succ_of_le h.2))
  | init d =>
    refine .ite fun h => .shows (.inr (.inr (.inr (.inl ⟨d, rfl⟩)))) (.done ?_)
    have hd := devOk_iff.mp h
    exact .append (.append (.control _ hd (by simp)) (.control _ hd (by simp))) (blankDigitsActions_transfers hd)
  | rdshadow d pos =>
    simp only [commandActions, actsRdshadow]
    split <;> exact .respond _
  | txtwr k ch dp => exact .ite fun h => .text rfl (idxOk_iff.mp h)
  | txtlen n => exact .ite fun h => .len rfl (lenOk_iff.mp h)
  | frame d off =>
    exact .ite fun h => .shows (.inr (.inr (.inr (.inr (.inl ⟨d, off, rfl⟩)))))
      (.done (refreshActions_transfers (devOk_iff.mp h) off))
  | render d dur =>
    by_cases hd : d < s.par.devices
    · exact .shows (.inr (.inr (.inr (.inr (.inr ⟨d, dur, rfl⟩))))) (actsRender_shows hd dur)
    · simp only [commandActions, actsRender, devOk_iff, hd, if_false]
      exact .ignore
  | _ => exact .ignore

/-- An instruction's actions are a command's, or one register write of a wire frame. -/
theorem mem_instrActions {i : Instr} {s : State} {a : Action} (h : a ∈ instrActions i s) :
    a ∈ commandActions i s ∨ ∃ op data, a = .writeReg op data := by
  cases i with
  | wDigit0 _ | wDigit1 _ | wDigit2 _ | wDigit3 _ | wDigit4 _ | wDigit5 _ | wDigit6 _ | wDigit7 _ | wDecodemode _
  | wIntensity _ | wScanlimit _ | wShutdown _ | wDisplaytest _ => exact .inr ⟨_, _, List.mem_singleton.mp h⟩
  | _ => exact .inl h

/-! ## Kinds of actions -/

/-- The action drives the pins or emits. -/
def Action.isBus : Action → Bool
  | .data _ | .clkRise | .clkFall | .latchRise | .latchFall | .emit _ => true
  | _ => false

/-- The action drives the pins or emits, writes the shadow bank, or is a refused read. -/
def Action.isDisplay : Action → Bool
  | .writeShadow _ _ _ | .readUnwritten _ => true
  | a => a.isBus

theorem transmitActions_isBus {p : Params} {t : Nat} {op data : Byte} {a : Action}
    (h : a ∈ transmitActions p t op data) : a.isBus = true := by
  rcases mem_transmitActions h with ⟨b, rfl⟩ | rfl | rfl | rfl | rfl | ⟨b, rfl⟩ | rfl <;> rfl

theorem Action.isDisplay_of_isBus {a : Action} (h : a.isBus = true) : a.isDisplay = true := by
  cases a <;> simp_all [Action.isDisplay, Action.isBus]

theorem Transfers.isDisplay {p : Params} {acts : List Action} (h : Transfers p acts) :
    ∀ a ∈ acts, a.isDisplay = true := by
  induction h with
  | nil => simp
  | digit pat hd hi =>
    intro a ha
    rcases List.mem_cons.mp ha with rfl | ha
    · rfl
    · exact Action.isDisplay_of_isBus (transmitActions_isBus ha)
  | control data hd hop => exact fun a ha => Action.isDisplay_of_isBus (transmitActions_isBus ha)
  | unwritten k => simp [Action.isDisplay]
  | append ha hb iha ihb => exact fun a h => (List.mem_append.mp h).elim (iha a) (ihb a)

theorem Shows.mem {p : Params} {len : Nat} {acts : List Action} (h : Shows p len acts) {a : Action} (ha : a ∈ acts) :
    a.isDisplay = true ∨ ∃ ms job, a = .request ms job := by
  cases h with
  | done h => exact .inl (h.isDisplay a ha)
  | wait h hj =>
    rcases List.mem_append.mp ha with ha | ha
    · exact .inl (h.isDisplay a ha)
    · exact .inr ⟨_, _, List.mem_singleton.mp ha⟩

/-- One action of a command, and which command may make it. -/
inductive ActionOf (i : Instr) : Action → Prop
  | bus {a : Action} (h : a.isBus = true) : ActionOf i a
  | respond (v : Byte) : ActionOf i (.respond v)
  | display {a : Action} (hi : WritesDigits i) (h : a.isDisplay = true) : ActionOf i a
  | request (ms : Duration) (job : ScrollJob) : ActionOf i (.request ms job)
  | text {k : Nat} {ch : Byte} {dp : Bool} (hi : i = .txtwr k ch dp) : ActionOf i (.writeText k { ch := ch, dp := dp })
  | len {n : Nat} (hi : i = .txtlen n) : ActionOf i (.writeLen (BitVec.ofNat 8 n))

theorem actionOf_of_mem {i : Instr} {s : State} {a : Action} (ha : a ∈ commandActions i s) : ActionOf i a := by
  have hc := commandCase i s
  generalize commandActions i s = acts at ha hc
  cases hc with
  | ignore => cases ha
  | respond v => rw [List.mem_singleton.mp ha]; exact .respond v
  | control data hd hop => exact .bus (transmitActions_isBus ha)
  | shows hi h =>
    rcases h.mem ha with hd | ⟨ms, job, rfl⟩
    · exact .display hi hd
    · exact .request ms job
  | text hi _ => rw [List.mem_singleton.mp ha]; exact .text hi
  | len hi _ => rw [List.mem_singleton.mp ha]; exact .len hi

/-- No command writes a device register but by the latch; that is what a wire frame does. -/
theorem writeReg_not_mem_commandActions (i : Instr) (s : State) (op data : Byte) :
    .writeReg op data ∉ commandActions i s := by
  intro ha
  cases actionOf_of_mem ha with
  | bus h => cases h
  | display _ h => cases h

/-- A part of the state that each of the actions leaves alone is left alone by all of them. -/
theorem foldl_act_eq {α : Type} (part : State → α) (acts : List Action)
    (h : ∀ a ∈ acts, ∀ s : State, part (s.act a) = part s) (s : State) :
    part (acts.foldl State.act s) = part s :=
  List.foldlRecOn (motive := fun t => part t = part s) acts State.act rfl fun t ht a ha => (h a ha t).trans ht

/-- A part of the state that each action of an instruction leaves alone, and a wire frame's register write, is left alone
by the instruction. -/
theorem exec_part_eq {α : Type} (part : State → α) {i : Instr} {s t : State} (h : exec i s = .next t)
    (hc : ∀ a, ActionOf i a → ∀ s : State, part (s.act a) = part s)
    (hw : ∀ op data, ∀ s : State, part (s.act (.writeReg op data)) = part s) : part t = part s := by
  rw [exec_eq_run] at h
  rw [(runActions_next h).1]
  refine foldl_act_eq part _ (fun a ha => ?_) s
  rcases mem_instrActions ha with ha | ⟨op, data, rfl⟩
  · exact hc a (actionOf_of_mem ha)
  · exact hw op data

/-! ## Who writes the shadow bank and the text (rules R20, R26) -/

theorem act_shadow_of_isBus {a : Action} (h : a.isBus = true) (s : State) : (s.act a).shadow = s.shadow := by
  cases a <;> simp_all [Action.isBus, State.act]

theorem exec_shadow_eq {i : Instr} {s t : State} (hi : ¬ WritesDigits i) (h : exec i s = .next t) :
    t.shadow = s.shadow := by
  refine exec_part_eq (·.shadow) h (fun a ha s => ?_) fun _ _ _ => rfl
  cases ha with
  | bus ha => exact act_shadow_of_isBus ha s
  | display hd _ => exact absurd hd hi
  | _ => rfl

theorem act_text_of_isDisplay {a : Action} (h : a.isDisplay = true) (s : State) :
    ((s.act a).tbuf, (s.act a).tlen) = (s.tbuf, s.tlen) := by
  cases a <;> simp_all [Action.isDisplay, Action.isBus, State.act]

theorem exec_text_eq {i : Instr} {s t : State} (hk : ∀ idx ch dp, i ≠ .txtwr idx ch dp) (hl : ∀ len, i ≠ .txtlen len)
    (h : exec i s = .next t) : (t.tbuf, t.tlen) = (s.tbuf, s.tlen) := by
  refine exec_part_eq (fun s => (s.tbuf, s.tlen)) h (fun a ha s => ?_) fun _ _ _ => rfl
  cases ha with
  | bus ha => exact act_text_of_isDisplay (Action.isDisplay_of_isBus ha) s
  | display _ ha => exact act_text_of_isDisplay ha s
  | text hi => exact absurd hi (hk _ _ _)
  | len hi => exact absurd hi (hl _)
  | _ => rfl

/-- Settles O21: the actions of every other instruction leave the shadow bank alone. -/
theorem onlyDigitWritersChangeShadow : Obligations.OnlyDigitWritersChangeShadow :=
  fun _ _ _ h hne => by_contra fun hi => hne (exec_shadow_eq hi h)

/-- Settles O30: the actions of every other instruction leave the text alone. -/
theorem onlyTextCommandsChangeText : Obligations.OnlyTextCommandsChangeText := by
  intro i s t h hne
  by_contra hi
  rw [not_or] at hi
  have htext := exec_text_eq (fun idx ch dp e => hi.1 ⟨idx, ch, dp, e⟩) (fun len e => hi.2 ⟨len, e⟩) h
  obtain ⟨hbuf, hlen⟩ := Prod.mk.inj htext
  exact hne.elim (· hbuf) (· hlen)

/-! ## The output trace only grows (rules R33, R293) -/

@[simp] theorem State.outputTrace_hardReset (s : State) : s.hardReset.outputTrace = s.outputTrace := rfl

theorem State.outputTrace_emit (s : State) (e : Event) : (s.emit e).outputTrace = s.outputTrace ++ [e] := by
  simp [State.outputTrace]

theorem State.outputTrace_act (s : State) (a : Action) : s.outputTrace <+: (s.act a).outputTrace := by
  cases a with
  | emit e => exact ⟨[e], (s.outputTrace_emit e).symm⟩
  | respond v => exact ⟨[.resp v], (State.outputTrace_emit { s with rsp := v, rspValid := true } _).symm⟩
  | request ms job =>
    exact ⟨[.waitReq ms],
      (State.outputTrace_emit { s with waitMs := ms, waitReq := true, seq := .waiting job } _).symm⟩
  | _ => exact List.prefix_rfl

theorem outputTrace_foldl_act (acts : List Action) (s : State) :
    s.outputTrace <+: (acts.foldl State.act s).outputTrace :=
  List.foldlRecOn (motive := fun t : State => s.outputTrace <+: t.outputTrace) acts State.act List.prefix_rfl
    fun t ht a _ => ht.trans (t.outputTrace_act a)

theorem outputTrace_runActions {acts : List Action} {s t : State} (h : runActions acts s = .next t) :
    s.outputTrace <+: t.outputTrace := by
  rw [(runActions_next h).1]
  exact outputTrace_foldl_act acts s

theorem step_outputTrace {s t : State} (h : step s = .next t) : s.outputTrace <+: t.outputTrace := by
  cases step_cases h with
  | same rest h => subst h; exact List.prefix_rfl
  | command w rest _ h =>
    rw [exec_eq_run] at h
    exact outputTrace_runActions (s := { s with host := rest }) h
  | resume job rest _ h => exact outputTrace_runActions (s := { s with host := rest }) h
  | reset rest acts _ h =>
    subst h
    exact outputTrace_foldl_act acts { s with host := rest }
  | foreign rest q f acts _ _ h =>
    subst h
    exact outputTrace_foldl_act acts (({ s with host := rest } : State).shiftForeign q f)
  | powerUp rest p _ h => subst h; exact List.prefix_rfl

/-- Settles O48: every action keeps what was emitted, and reset moves it to the events before it. -/
theorem stepOnlyAppendsToTrace : Obligations.StepOnlyAppendsToTrace := fun _ _ h =>
  (step_outputTrace h).imp fun _ => Eq.symm

/-! ## The coarse view (rule R33) -/

theorem frameBits_frameAt {sr : List Bool} {p : Nat} (h : 16 * (p + 1) ≤ sr.length) :
    frameBits (frameAt sr p) = (sr.drop (16 * p)).take 16 := by
  apply List.ext_getElem
  · simp; omega
  · intro i hi _
    have hi' : i < 16 := by simpa using hi
    have hlt : 16 * p + i < sr.length := by omega
    simp [frameBits, frameAt_getLsbD sr p i hi', List.getD_eq_getElem?_getD, hlt]

/-- The frames a register holds are its bits. -/
theorem framesOf_flatMap_frameBits {n : Nat} {sr : List Bool} (h : 16 * n ≤ sr.length) :
    (framesOf n sr).flatMap frameBits = sr.take (16 * n) := by
  induction n with
  | zero => simp [framesOf]
  | succ n ih =>
    have hn := ih (by omega)
    simp only [framesOf] at hn
    rw [framesOf, List.range_succ, List.map_append, List.flatMap_append, hn, Nat.mul_succ, List.take_add]
    simp [frameBits_frameAt h]

/-- A register that holds a list of frames, and older bits after it, holds these frames. -/
theorem framesOf_flatMap (frames : List WireFrame) (older : List Bool) :
    framesOf frames.length (frames.flatMap frameBits ++ older) = frames := by
  apply List.ext_getElem
  · simp [framesOf]
  · intro p _ hp
    simp [framesOf, frameAt_flatMap frames p hp older]

theorem looseBits_expand (acc : List Bool) :
    (looseBits acc).flatMap CoarseEvent.expand = acc.reverse.map Event.bit := by
  simp only [looseBits]
  induction acc.reverse with
  | nil => rfl
  | cons b bs ih => simp [CoarseEvent.expand, ih]

/-- A closed run is its bits and the latch. -/
theorem closeRun_expand (n : Nat) (acc : List Bool) :
    (closeRun n acc).flatMap CoarseEvent.expand = acc.reverse.map Event.bit ++ [.latch] := by
  unfold closeRun
  split
  · next h =>
    have hs : shiftOrder (framesOf n acc) = (acc.take (16 * n)).reverse := by
      rw [← framesOf_flatMap_frameBits h, ← shiftOrder_reverse, List.reverse_reverse]
    have hr : acc.reverse = (acc.drop (16 * n)).reverse ++ (acc.take (16 * n)).reverse := by
      rw [← List.reverse_append, List.take_append_drop]
    simp [looseBits_expand, CoarseEvent.expand, hs, hr]
  · simp [looseBits_expand, CoarseEvent.expand]

/-- The coarse view put out in full is the trace, the bits read before it first. -/
theorem coarseFrom_expand (n : Nat) (acc : List Bool) (es : List Event) :
    (coarseFrom n acc es).flatMap CoarseEvent.expand = acc.reverse.map Event.bit ++ es := by
  induction es generalizing acc with
  | nil => simp [coarseFrom, looseBits_expand]
  | cons e es ih =>
    cases e with
    | bit b => simp [coarseFrom, ih]
    | latch => simp [coarseFrom, ih, closeRun_expand]
    | waitReq ms => simp [coarseFrom, ih, looseBits_expand, CoarseEvent.expand]
    | resp v => simp [coarseFrom, ih, looseBits_expand, CoarseEvent.expand]

theorem coarseFrom_bits (n : Nat) (acc bs : List Bool) (es : List Event) :
    coarseFrom n acc (bs.map Event.bit ++ es) = coarseFrom n (bs.reverse ++ acc) es := by
  induction bs generalizing acc with
  | nil => rfl
  | cons b bs ih => simp [coarseFrom, ih]

/-- The latch after a whole frame vector closes one commit of it, and leaves the older bits loose. -/
theorem closeRun_frames (frames : List WireFrame) (acc : List Bool) :
    closeRun frames.length ((shiftOrder frames).reverse ++ acc) = looseBits acc ++ [.commit frames] := by
  have hl : (frames.flatMap frameBits).length = 16 * frames.length := flatMap_frameBits_length frames
  rw [shiftOrder_reverse, closeRun, if_pos (by simp [hl]), framesOf_flatMap, ← hl, List.drop_left]

/-- A whole frame vector and its latch add one commit to the coarse view, whatever stands before. -/
theorem coarseFrom_append_frames (frames : List WireFrame) (acc : List Bool) (es : List Event) :
    coarseFrom frames.length acc (es ++ ((shiftOrder frames).map Event.bit ++ [.latch])) =
      coarseFrom frames.length acc es ++ [.commit frames] := by
  induction es generalizing acc with
  | nil => simp [coarseFrom_bits, coarseFrom, closeRun_frames, looseBits]
  | cons e es ih => cases e <;> simp only [List.cons_append, coarseFrom, ih, List.append_assoc]

theorem State.outputTrace_afterTransaction (s : State) (t : Nat) (op data : Byte) :
    (s.afterTransaction t op data).outputTrace = s.outputTrace ++ transactionEvents s.par.devices t op data := by
  simp [State.outputTrace, State.afterTransaction]

/-- Settles O35, by induction on the trace for either clause. -/
theorem coarseTraceLosesNothing : Obligations.CoarseTraceLosesNothing := by
  refine ⟨fun s => coarseFrom_expand _ [] _, fun s t op data _ => ?_⟩
  have h := coarseFrom_append_frames (frameVector s.par.devices t (mkFrame op data)) [] s.outputTrace
  rw [frameVector_length] at h
  rw [State.coarseTrace, State.outputTrace_afterTransaction]
  exact h

/-! ## What is to be shown of an invariant once, so that every step keeps it -/

theorem opsWf_of_paramsWf {p : Params} (h : paramsWf p) : opsWf p.ops := by
  obtain ⟨-, -, -, -, hops, -⟩ := h
  exact hops

/-- Transfers keep what every digit write and every control transaction keeps. -/
theorem Transfers.foldl_keeps {P : State → Prop} {p : Params} {acts : List Action} (h : Transfers p acts)
    (hp : paramsWf p)
    (digit : ∀ {s : State} {d i : Nat} (pat : Byte), P s → d < s.par.devices → i < 8 →
      P ((s.setShadow d i pat).afterTransaction d (digitOp s.par.ops i) pat))
    (control : ∀ {s : State} {d : Nat} {op : Byte} (data : Byte), P s → d < s.par.devices →
      op ∈ controlOps s.par.ops → P (s.afterTransaction d op data))
    {s : State} (hs : s.par = p) (hP : P s) : P (acts.foldl State.act s) := by
  have hops := opsWf_of_paramsWf hp
  induction h generalizing s with
  | nil => exact hP
  | digit pat hd hi =>
    subst hs
    rw [foldl_writeDigit s _ _ pat hd (op_ne_noop hops (digitOp_mem hops (hi hp)))]
    exact digit pat hP hd (hi hp)
  | control data hd hop =>
    subst hs
    rw [foldl_transmit s _ _ data hd (controlOps_ne_noop hops hop)]
    exact control data hP hd hop
  | unwritten k => exact hP
  | @append as bs _ _ iha ihb =>
    rw [List.foldl_append]
    exact ihb ((foldl_act_frame as s).1.trans hs) (iha hs hP)

/-- Transfers change only what transactions write. -/
theorem Transfers.onlyDisplay {acts : List Action} {s : State} (h : Transfers s.par acts) (hp : paramsWf s.par)
    (hc : s.clkPin = .idle) (hl : s.latchPin = .inactive) : onlyDisplay s (acts.foldl State.act s) :=
  h.foldl_keeps hp (P := Machine.onlyDisplay s) (fun _ hP _ _ => hP.trans rfl) (fun _ hP _ _ => hP.trans rfl) rfl
    (.refl s hc hl)

/-- The job of a held block is inside its frames. -/
theorem State.Inv.fits {s : State} {job : ScrollJob} (h : s.Inv) (hs : s.seq = .waiting job) :
    job.Fits s.par s.tlen.toNat := by
  obtain ⟨-, -, -, -, hw, -⟩ := h
  simp only [State.waitOk, hs, Bool.and_eq_true, decide_eq_true_eq] at hw
  obtain ⟨-, hd, h1, hk, hf, -⟩ := hw
  exact ⟨hd, h1, hk, hf⟩

/-- What a held RENDER does after its request is withdrawn. -/
theorem resumeActions_shows {s : State} {job : ScrollJob} (hj : job.Fits s.par s.tlen.toNat) :
    ∃ acts, resumeActions job s = .release :: acts ∧ Shows s.par s.tlen.toNat acts := by
  obtain ⟨hd, -, -, hf⟩ := hj
  refine ⟨_, rfl, ?_⟩
  split
  · next hk => exact scrollFrameActions_shows hd hk hf
  · exact .done .nil

theorem writeReg_not_mem_resumeActions {s : State} {job : ScrollJob} (h : s.Inv) (hs : s.seq = .waiting job)
    (op data : Byte) : .writeReg op data ∉ resumeActions job s := by
  obtain ⟨acts, hr, hshows⟩ := resumeActions_shows (h.fits hs)
  intro hm
  rw [hr] at hm
  rcases hshows.mem (a := .writeReg op data) (by simpa using hm) with h | ⟨ms, job', h⟩ <;> cases h

/-- The predicate is part of, or beside, the structural invariant, and each operation of the machine keeps it. -/
structure KeptByOperations (P : State → Prop) : Prop where
  inv       : ∀ {s}, P s → s.Inv
  consume   : ∀ {s} (rest), P s → P { s with host := rest }
  digit     : ∀ {s d i} (pat), P s → d < s.par.devices → i < 8 →
    P ((s.setShadow d i pat).afterTransaction d (digitOp s.par.ops i) pat)
  control   : ∀ {s d op} (data), P s → d < s.par.devices → op ∈ controlOps s.par.ops → P (s.afterTransaction d op data)
  respond   : ∀ {s} (v), P s → P (s.respond v)
  text      : ∀ {s k} (sl), P s → k + 2 ≤ s.par.cap → P (s.setText k sl)
  len       : ∀ {s n}, P s → s.seq = .idle → n ≤ s.par.cap - 1 → P (s.setLen (BitVec.ofNat 8 n))
  request   : ∀ {s job}, P s → job.Fits s.par s.tlen.toNat → P (s.requestWait job.ms job)
  release   : ∀ {s}, P s → P s.releaseWait
  reset     : ∀ {s} {acts : List Action}, P s → (∀ op data, .writeReg op data ∉ acts) → P (acts.foldl State.act s).hardReset
  shift     : ∀ {s q} (f), P s → q < s.par.devices → P (s.shiftForeign q f)
  write     : ∀ {s op} (data), P s → op ≠ opNoop → P (s.writeDevice s.pos op data)
  powerUp   : ∀ {s p}, P s → p < s.par.devices → P (s.devicePowerUp p)

namespace KeptByOperations

variable {P : State → Prop} (K : KeptByOperations P)
include K

theorem shows {s : State} {acts : List Action} (hP : P s) (h : Shows s.par s.tlen.toNat acts) :
    P (acts.foldl State.act s) := by
  obtain ⟨hp, -, -, -, -, hc, hl⟩ := K.inv hP
  have hkept : ∀ {as}, Transfers s.par as → P (as.foldl State.act s) :=
    fun ht => ht.foldl_keeps hp K.digit K.control rfl hP
  cases h with
  | done ht => exact hkept ht
  | @wait as job ht hj =>
    rw [List.foldl_append]
    refine K.request (hkept ht) ?_
    rw [ht.onlyDisplay hp hc hl]
    exact hj

theorem command {s : State} (hP : P s) (hs : s.seq = .idle) (i : Instr) :
    P ((commandActions i s).foldl State.act s) := by
  have hc := commandCase i s
  generalize commandActions i s = acts at hc
  cases hc with
  | ignore => exact hP
  | respond v => exact K.respond v hP
  | control data hd hop => exact K.shows hP (.done (.control data hd hop))
  | shows _ h => exact K.shows hP h
  | text _ hk => exact K.text _ hP hk
  | len _ hn => exact K.len hP hs hn

theorem resume {s : State} {job : ScrollJob} (hP : P s) (hs : s.seq = .waiting job) :
    P ((resumeActions job s).foldl State.act s) := by
  obtain ⟨acts, hr, hshows⟩ := resumeActions_shows ((K.inv hP).fits hs)
  rw [hr]
  exact K.shows (s := s.releaseWait) (K.release hP) hshows

/-- What every operation keeps, every step keeps. -/
theorem step {s t : State} (hP : P s) (h : step s = .next t) : P t := by
  cases step_cases h with
  | same rest h => subst h; exact K.consume rest hP
  | command w rest hs h =>
    rw [exec_command_eq_run] at h
    rw [(runActions_next h).1]
    exact K.command (K.consume rest hP) hs _
  | resume job rest hs h =>
    rw [(runActions_next h).1]
    exact K.resume (K.consume rest hP) hs
  | reset rest acts hs h =>
    subst h
    refine K.reset (K.consume rest hP) fun op data hm => ?_
    rcases hs with rfl | ⟨w, n, -, rfl⟩ | ⟨job, n, hj, rfl⟩
    · cases hm
    · exact writeReg_not_mem_commandActions _ _ op data (List.mem_of_mem_take hm)
    · exact writeReg_not_mem_resumeActions (K.inv (K.consume rest hP)) hj op data (List.mem_of_mem_take hm)
  | foreign rest q f acts hq ha h =>
    have hshift := K.shift f (K.consume rest hP) hq
    rcases ha with rfl | ⟨op, data, hop, rfl⟩
    · subst h; exact hshift
    · subst h; exact K.write data hshift hop
  | powerUp rest p hp h => subst h; exact K.powerUp (K.consume rest hP) hp

/-- What every operation keeps, every run keeps. -/
theorem run {k : Nat} {s t : State} (hP : P s) (h : Host.Core.run core k s = .next t) : P t := by
  induction k generalizing s with
  | zero => cases h; exact hP
  | succ k ih =>
    obtain ⟨u, hu, hrun⟩ := core_run_next h
    exact ih (K.step hP hu) hrun

end KeptByOperations

/-! ## The structural invariant -/

/-- The device registers of an `n`-device chain: existing devices only, none under `OP_NOOP`, in canonical form. -/
def DevOk (n : Nat) (dev : List (Nat × Byte)) : Prop :=
  Mem.wf dev ∧ ∀ e ∈ dev, e.1 < 256 * n ∧ e.1 % 256 ≠ 0

theorem DevOk.write {n p : Nat} {op : Byte} {dev : List (Nat × Byte)} (h : DevOk n dev) (hp : p < n)
    (hop : op ≠ opNoop) (data : Byte) : DevOk n (Mem.write dev (devKey p op) data) := by
  refine ⟨Mem.write_wf _ _ _ h.1, fun e he => ?_⟩
  rcases Mem.mem_write he with rfl | he
  · have hlt := op.isLt
    have h0 : op.toNat ≠ 0 := fun h => hop (BitVec.eq_of_toNat_eq h)
    simp only [devKey]
    omega
  · exact h.2 e he

theorem DevOk.commitFrame {n p : Nat} {dev : List (Nat × Byte)} (h : DevOk n dev) (hp : p < n) (f : WireFrame) :
    DevOk n (commitFrame dev p f) := by
  unfold Machine.commitFrame
  split
  · exact h
  · next hop => exact h.write hp hop _

theorem DevOk.commitAll {n : Nat} {dev : List (Nat × Byte)} (h : DevOk n dev) (sr : List Bool) :
    DevOk n (commitAll n sr dev) :=
  List.foldlRecOn (List.range n) _ h fun _ hdev _ hp => hdev.commitFrame (List.mem_range.mp hp) _

/-- The chain stays well-formed when only its bits and its registers change, and these stay well-formed. -/
theorem State.chainOk_congr {s t : State} (h : s.chainOk) (hpar : t.par = s.par) (hpos : t.pos = s.pos)
    (hpow : t.powerUps = s.powerUps) (hsr : t.sr.length = s.sr.length)
    (hdev : DevOk s.par.devices s.dev → DevOk s.par.devices t.dev) : t.chainOk := by
  obtain ⟨hl, hd, hp, he, hw⟩ := h
  obtain ⟨hd', he'⟩ := hdev ⟨hd, he⟩
  unfold State.chainOk
  rw [hpar, hpos, hpow, hsr]
  exact ⟨hl, hd', hp, he', hw⟩

/-- Every action keeps the chain well-formed but a write under `OP_NOOP`, and no command has such an action. -/
theorem State.act_chainOk {s : State} (h : s.chainOk) {a : Action} (ha : ∀ op data, a ≠ .writeReg op data) :
    (s.act a).chainOk := by
  cases a with
  | clkRise =>
    refine State.chainOk_congr h rfl rfl rfl ?_ id
    obtain ⟨hl, -⟩ := h
    simp [State.act, shiftIn, hl]
  | latchRise => exact State.chainOk_congr h rfl rfl rfl rfl fun hd => hd.commitAll s.sr
  | writeReg op data => exact absurd rfl (ha op data)
  | _ => exact h

theorem foldl_act_chainOk {acts : List Action} {s : State} (h : s.chainOk) (ha : ∀ op data, .writeReg op data ∉ acts) :
    (acts.foldl State.act s).chainOk :=
  List.foldlRecOn acts _ h fun _ ht _ hm => State.act_chainOk ht fun op data e => ha op data (e ▸ hm)

theorem State.Inv.consume {s : State} (rest : List HostMove) (h : s.Inv) : State.Inv { s with host := rest } := h

theorem State.Inv.respond {s : State} (v : Byte) (h : s.Inv) : (s.respond v).Inv := h

theorem State.Inv.setShadow {s : State} {d i : Nat} (v : Byte) (h : s.Inv) : (s.setShadow d i v).Inv := by
  obtain ⟨hp, hs, hrest⟩ := h
  exact ⟨hp, by simpa using hs, hrest⟩

theorem State.Inv.writeDevice {s : State} {p : Nat} {op : Byte} (data : Byte) (h : s.Inv) (hp : p < s.par.devices)
    (hop : op ≠ opNoop) : (s.writeDevice p op data).Inv := by
  obtain ⟨hpar, hs, ht, hc, hrest⟩ := h
  exact ⟨hpar, hs, ht, State.chainOk_congr hc rfl rfl rfl rfl fun hd => hd.write hp hop data, hrest⟩

theorem State.Inv.afterTransaction {s : State} {t : Nat} {op : Byte} (data : Byte) (h : s.Inv) (ht : t < s.par.devices)
    (hop : op ≠ opNoop) : (s.afterTransaction t op data).Inv := by
  obtain ⟨hpar, hs, htext, hc, hw, -, -⟩ := h
  refine ⟨hpar, hs, htext, State.chainOk_congr hc rfl rfl rfl ?_ fun hd => hd.write ht hop data, hw, rfl, rfl⟩
  obtain ⟨hl, -⟩ := hc
  simp only [State.afterTransaction, flatMap_frameBits_length, frameVector_length, hl]

theorem State.Inv.setText {s : State} {k : Nat} (sl : Slot) (h : s.Inv) (hk : k + 2 ≤ s.par.cap) :
    (s.setText k sl).Inv := by
  obtain ⟨hpar, hs, ⟨hlen, hwf, hslots⟩, hrest⟩ := h
  refine ⟨hpar, hs, ⟨hlen, Mem.write_wf _ _ _ hwf, fun e he => ?_⟩, hrest⟩
  rcases Mem.mem_write he with rfl | he
  · exact hk
  · exact hslots e he

theorem State.Inv.setLen {s : State} {n : Nat} (h : s.Inv) (hs : s.seq = .idle) (hn : n ≤ s.par.cap - 1) :
    (s.setLen (BitVec.ofNat 8 n)).Inv := by
  obtain ⟨hpar, hsh, ⟨-, htext⟩, hc, hw, hpins⟩ := h
  obtain ⟨-, ⟨hcap, -⟩, -⟩ := id hpar
  refine ⟨hpar, hsh, ⟨?_, htext⟩, hc, ?_, hpins⟩
  · have hle : n % 2 ^ 8 ≤ n := Nat.mod_le _ _
    simp only [State.setLen_tlen, State.setLen_par, BitVec.toNat_ofNat]
    omega
  · simpa [State.waitOk, hs] using hw

theorem State.Inv.requestWait {s : State} {job : ScrollJob} (h : s.Inv) (hj : job.Fits s.par s.tlen.toNat) :
    (s.requestWait job.ms job).Inv := by
  obtain ⟨hpar, hs, ht, hc, -, hpins⟩ := h
  obtain ⟨hd, h1, hk, hf⟩ := hj
  have hjob : (s.requestWait job.ms job).jobOk job := ⟨hd, h1, hk, hf, rfl⟩
  exact ⟨hpar, hs, ht, hc, (Bool.true_and _).trans (decide_eq_true hjob), hpins⟩

theorem State.Inv.releaseWait {s : State} (h : s.Inv) : s.releaseWait.Inv := by
  obtain ⟨hpar, hs, ht, hc, -, hpins⟩ := h
  exact ⟨hpar, hs, ht, hc, rfl, hpins⟩

/-- Reset restores the block, so it asks only for admissible parameters and a well-formed chain. -/
theorem State.hardReset_inv {s : State} (hpar : paramsWf s.par) (hc : s.chainOk) : s.hardReset.Inv := by
  obtain ⟨hl, hd, -, hrest⟩ := hc
  obtain ⟨⟨h1, -⟩, ⟨hcap, -⟩, -⟩ := id hpar
  exact ⟨hpar, by simp, ⟨by simpa using hcap, .nil, by simp⟩, ⟨hl, hd, h1, hrest⟩, rfl, rfl, rfl⟩

theorem State.resetWith_inv {p : Params} (hp : paramsWf p) : (State.resetWith p).Inv := by
  obtain ⟨htext, hdev, hpow⟩ := State.resetWith_mem p
  obtain ⟨⟨h1, -⟩, ⟨hcap, -⟩, -⟩ := id hp
  exact ⟨hp, by simp [State.resetWith], ⟨by simpa [State.resetWith] using hcap, htext, by simp [State.resetWith]⟩,
    ⟨by simp [State.resetWith], hdev, h1, by simp [State.resetWith], hpow, by simp [State.resetWith]⟩, rfl, rfl, rfl⟩

theorem State.Inv.shiftForeign {s : State} {q : Nat} (f : WireFrame) (h : s.Inv) (hq : q < s.par.devices) :
    (s.shiftForeign q f).Inv := by
  obtain ⟨hpar, hs, ht, ⟨-, hd, -, hrest⟩, hw⟩ := h
  refine ⟨hpar, hs, ht, ⟨?_, hd, hq, hrest⟩, hw⟩
  rw [State.shiftForeign_sr, shift_vector _ _ _ _ (Nat.zero_lt_of_lt hq), flatMap_frameBits_length, frameVector_length]
  rfl

theorem State.Inv.devicePowerUp {s : State} {p : Nat} (h : s.Inv) (hp : p < s.par.devices) :
    (s.devicePowerUp p).Inv := by
  obtain ⟨hpar, hs, ht, ⟨hl, hd, hpos, he, hpow, hups⟩, hw⟩ := h
  refine ⟨hpar, hs, ht, ⟨(s.devicePowerUp_sr_length p hp hl).trans hl, Mem.filter_wf _ _ hd, hpos,
    fun e h => he e (List.mem_of_mem_filter h), Mem.write_wf _ _ _ hpow, fun e h => ?_⟩, hw⟩
  rcases Mem.mem_write h with rfl | h
  · exact ⟨hp, Nat.succ_ne_zero _⟩
  · exact hups e h

theorem inv_keptByOperations : KeptByOperations State.Inv where
  inv := id
  consume := .consume
  digit pat h hd hi :=
    have hops := opsWf_of_paramsWf h.1
    (h.setShadow pat).afterTransaction pat hd (op_ne_noop hops (digitOp_mem hops hi))
  control data h hd hop := h.afterTransaction data hd (controlOps_ne_noop (opsWf_of_paramsWf h.1) hop)
  respond := .respond
  text := .setText
  len := .setLen
  request := .requestWait
  release := .releaseWait
  reset := by
    intro s acts h ha
    obtain ⟨hpar, -, -, hc, -⟩ := h
    exact State.hardReset_inv ((foldl_act_frame acts s).1 ▸ hpar) (foldl_act_chainOk hc ha)
  shift := .shiftForeign
  write data h hop :=
    have ⟨_, _, _, ⟨_, _, hpos, _⟩, _⟩ := h
    h.writeDevice data hpos hop
  powerUp := .devicePowerUp

/-- Settles O42: the reset values meet every part of the invariant. -/
theorem resetMeetsInvariant : Obligations.ResetMeetsInvariant :=
  ⟨fun _ => State.resetWith_inv, State.resetWith_inv (paramsFor_wf 1 (by decide) (by decide))⟩

/-- Settles O43: each operation keeps the invariant, and a step is made of operations. -/
theorem stepKeepsInvariant : Obligations.StepKeepsInvariant := fun _ _ => inv_keptByOperations.step

/-! ## The shadow invariant (rule R21) -/

theorem lastSent_bits (n d : Nat) (op : Byte) (bs : List Bool) (es : List Event) :
    lastSent n d op (bs.map Event.bit ++ es) = lastSent n d op es := by
  induction bs with
  | nil => rfl
  | cons b bs ih => exact ih

/-- After a transaction, the last byte sent to its register is its own; to every other register, the one before. -/
theorem lastSent_transactionEvents {n t d : Nat} {op op' : Byte} (data : Byte) (es : List Event) (hd : d < n)
    (hop : op' ≠ opNoop) :
    lastSent n d op' ((transactionEvents n t op data).reverse ++ es) =
      if d = t ∧ op = op' then some data else lastSent n d op' es := by
  generalize hv : frameVector n t (mkFrame op data) = frames
  have hl : (frames.flatMap frameBits).length = 16 * n := by rw [flatMap_frameBits_length, ← hv, frameVector_length]
  have hbits : (transactionEvents n t op data).reverse ++ es =
      .latch :: ((frames.flatMap frameBits).map Event.bit ++ es) := by
    simp [transactionEvents, hv, ← List.map_reverse, shiftOrder_reverse]
  have htake : ((((frames.flatMap frameBits).map Event.bit ++ es).take (16 * n)).map Event.bitValue) =
      frames.flatMap frameBits := by
    rw [← hl, ← List.length_map (f := Event.bit), List.take_left, List.map_map]
    exact List.map_id _
  have hframe : frameAt (frames.flatMap frameBits) d = if d = t then mkFrame op data else 0 := by
    have := frameAt_vector n t d (mkFrame op data) hd []
    rwa [hv, List.append_nil] at this
  rw [hbits]
  simp only [lastSent, htake, hframe, lastSent_bits]
  by_cases hdt : d = t
  · simp [hdt, mkFrame_op, mkFrame_data]
  · rw [if_neg hdt, frameOp_zero, if_neg hop.symm, if_neg fun h => hdt h.1]

theorem State.resetWith_mirror (p : Params) : (State.resetWith p).Mirror := by
  intro d _ i _
  simp [State.shadowAt, State.resetWith, lastSent]

theorem State.Mirror.hardReset (s : State) : s.hardReset.Mirror := State.resetWith_mirror s.par

/-- A control transaction carries no digit's opcode. -/
theorem State.Mirror.control {s : State} {t : Nat} {op : Byte} (data : Byte) (h : s.Mirror) (hops : opsWf s.par.ops)
    (hop : op ∈ controlOps s.par.ops) : (s.afterTransaction t op data).Mirror := by
  intro d hd i hi
  have hne : op ≠ digitOp s.par.ops i := (digitOp_ne_control hops hi hop).symm
  have hlast := lastSent_transactionEvents (t := t) (op := op) data s.trace hd (op_ne_noop hops (digitOp_mem hops hi))
  rw [if_neg fun h => hne h.2] at hlast
  exact (h d hd i hi).trans (congrArg (·.getD 0x00) hlast.symm)

/-- A digit write puts the byte it sends into the digit's shadow register, and touches no other. -/
theorem State.Mirror.digit {s : State} {t j : Nat} (pat : Byte) (h : s.Mirror) (hI : s.Inv) (ht : t < s.par.devices)
    (hj : j < 8) : ((s.setShadow t j pat).afterTransaction t (digitOp s.par.ops j) pat).Mirror := by
  obtain ⟨hpar, hlen, -⟩ := hI
  have hops := opsWf_of_paramsWf hpar
  intro d hd i hi
  have hshadow := s.shadowAt_setShadow t j pat hlen ht hj d i hi
  have hlast := lastSent_transactionEvents (t := t) (op := digitOp s.par.ops j) pat s.trace hd
    (op_ne_noop hops (digitOp_mem hops hi))
  have hsame : digitOp s.par.ops j = digitOp s.par.ops i ↔ i = j :=
    ⟨fun e => (digitOp_inj hops hj hi e).symm, fun e => by rw [e]⟩
  simp only [hsame] at hlast
  refine hshadow.trans (Eq.trans ?_ (congrArg (·.getD 0x00) hlast.symm))
  split
  · rfl
  · exact h d hd i hi

theorem mirror_keptByOperations : KeptByOperations fun s => s.Inv ∧ s.Mirror where
  inv h := h.1
  consume rest h := ⟨h.1.consume rest, h.2⟩
  digit pat h hd hi := ⟨inv_keptByOperations.digit pat h.1 hd hi, h.2.digit pat h.1 hd hi⟩
  control data h hd hop :=
    ⟨inv_keptByOperations.control data h.1 hd hop, h.2.control data (opsWf_of_paramsWf h.1.1) hop⟩
  respond v h := ⟨h.1.respond v, h.2⟩
  text sl h hk := ⟨h.1.setText sl hk, h.2⟩
  len h hs hn := ⟨h.1.setLen hs hn, h.2⟩
  request h hj := ⟨h.1.requestWait hj, h.2⟩
  release h := ⟨h.1.releaseWait, h.2⟩
  reset h ha := ⟨inv_keptByOperations.reset h.1 ha, State.Mirror.hardReset _⟩
  shift f h hq := ⟨h.1.shiftForeign f hq, h.2⟩
  write data h hop := ⟨inv_keptByOperations.write data h.1 hop, h.2⟩
  powerUp h hp := ⟨h.1.devicePowerUp hp, h.2⟩

/-- No step writes the parameters. -/
theorem step_par {s t : State} (h : step s = .next t) : t.par = s.par := by
  cases step_cases h with
  | same rest h => rw [h]
  | command w rest _ h =>
    rw [exec_eq_run] at h
    rw [(runActions_next h).1]
    exact (foldl_act_frame _ _).1
  | resume job rest _ h =>
    rw [(runActions_next h).1]
    exact (foldl_act_frame _ _).1
  | reset rest acts _ h => subst h; exact (foldl_act_frame acts _).1
  | foreign rest q f acts _ _ h => subst h; exact (foldl_act_frame acts _).1
  | powerUp rest p _ h => rw [h]; rfl

theorem core_run_par {k : Nat} {s t : State} (h : Host.Core.run core k s = .next t) : t.par = s.par := by
  induction k generalizing s with
  | zero => cases h; rfl
  | succ k ih =>
    obtain ⟨u, hu, hrun⟩ := core_run_next h
    exact (ih hrun).trans (step_par hu)

/-- Settles O44: zeros in the shadow bank, and nothing sent. -/
theorem resetMirrorsWire : Obligations.ResetMirrorsWire := State.resetWith_mirror

/-- Settles O45: every operation keeps the structural and the shadow invariant together, and both hold after reset. -/
theorem shadowBankMirrorsWire : Obligations.ShadowBankMirrorsWire := by
  refine ⟨fun s t hI hM h => (mirror_keptByOperations.step ⟨hI, hM⟩ h).2, ?_⟩
  intro p moves k t hp hrun
  have hreset : State.Inv { State.resetWith p with host := moves } ∧
      State.Mirror { State.resetWith p with host := moves } :=
    ⟨(State.resetWith_inv hp).consume moves, State.resetWith_mirror p⟩
  obtain ⟨-, hM⟩ := mirror_keptByOperations.run hreset hrun
  have hpar : t.par = p := core_run_par hrun
  subst hpar
  exact hM

end Sys2Proof.Machine

/-! # Proofs of the family 20_memory: another agent's transaction -/

namespace Sys2Proof.Machine

/-- A step on another agent's transaction is that transaction, the move consumed. -/
theorem step_wire {s : State} {q : Nat} {f : WireFrame} {rest : List HostMove} (h : s.host = .wire q f :: rest) :
    step s = foreignTransaction q f { s with host := rest } := by
  simp only [step, hostStep, h]

/-- Another agent's transaction does nothing outside the chain; inside it shifts the vector in, and then at most writes the
register of the target that the frame selects (rules R139, R142). -/
theorem foreignTransaction_next {q : Nat} {f : WireFrame} {s t : State} (h : foreignTransaction q f s = .next t) :
    t = s ∨ t = s.shiftForeign q f ∨ t = (s.shiftForeign q f).writeDevice q (frameOp f) (frameData f) := by
  unfold foreignTransaction at h
  split at h
  · split at h
    · next i hi =>
      rw [exec_eq_run] at h
      obtain ⟨ht, -⟩ := runActions_next h
      rcases instrActions_of_decodeWire hi (s.shiftForeign q f) rfl with ⟨hacts, -⟩ | ⟨hacts, -⟩
      · rw [hacts] at ht; exact .inr (.inl ht)
      · rw [hacts] at ht; exact .inr (.inr ht)
    · cases h; exact .inr (.inl rfl)
    · cases h
  · cases h; exact .inl rfl

/-- Settles O32: neither the shift nor the target's register write reaches the block, and the write is the target's own. -/
theorem foreignTransactionBypassesShadow : Obligations.ForeignTransactionBypassesShadow := by
  intro s t q f rest hs h
  rw [step_wire hs] at h
  rcases foreignTransaction_next h with rfl | rfl | rfl
  · exact ⟨rfl, fun _ _ _ => rfl⟩
  · exact ⟨rfl, fun _ _ _ => rfl⟩
  · refine ⟨rfl, fun p op hp => ?_⟩
    rw [State.devAt_writeDevice, if_neg fun e => hp e.1]
    rfl

end Sys2Proof.Machine

/-! # Proofs of the family 30_encoding: the decoder and the encoder, one transaction, the response port -/

namespace Sys2Proof
open Machine

/-! ## The fields of a command word (rules R80, R96) -/

theorem cmdField_eq (w : CommandWord) (lo len : Nat) : cmdField w lo len = w.toNat / 2 ^ lo % 2 ^ len := by
  rw [cmdField, BitVec.extractLsb'_toNat, Nat.shiftRight_eq_div_pow]

theorem fieldAddr_lt (w : CommandWord) : fieldAddr w < 16 := BitVec.isLt _

theorem fieldA_lt (w : CommandWord) : fieldA w < 256 := BitVec.isLt _

theorem fieldB_lt (w : CommandWord) : fieldB w < 256 := BitVec.isLt _

/-- The opcode and the four fields of an assembled word each fit their place; a field that is zero does. -/
structure FieldsFit (cop d a b c : Nat) : Prop where
  opcode : cop < 16 := by decide
  addr   : d < 16 := by decide
  a      : a < 256 := by decide
  b      : b < 256 := by decide
  c      : c < 256 := by decide

section
variable {cop d a b c : Nat} (h : FieldsFit cop d a b c)
include h

theorem toNat_assemble :
    (assemble cop d a b c).toNat = cop * 2 ^ 28 + d * 2 ^ 24 + a * 2 ^ 16 + b * 2 ^ 8 + c := by
  rw [assemble, BitVec.toNat_ofNat]
  cases h
  omega

@[simp] theorem opcode_assemble : cmdField (assemble cop d a b c) 28 4 = cop := by
  rw [cmdField_eq, toNat_assemble h]
  cases h
  omega

@[simp] theorem fieldAddr_assemble : fieldAddr (assemble cop d a b c) = d := by
  rw [fieldAddr, cmdField_eq, toNat_assemble h]
  cases h
  omega

@[simp] theorem fieldA_assemble : fieldA (assemble cop d a b c) = a := by
  rw [fieldA, cmdField_eq, toNat_assemble h]
  cases h
  omega

@[simp] theorem fieldB_assemble : fieldB (assemble cop d a b c) = b := by
  rw [fieldB, cmdField_eq, toNat_assemble h]
  cases h
  omega

theorem toNat_fieldDur_assemble : (fieldDur (assemble cop d a b c)).toNat = a * 2 ^ 16 + b * 2 ^ 8 + c := by
  have hdur := cmdField_eq (assemble cop d a b c) 0 24
  rw [toNat_assemble h] at hdur
  cases h
  exact hdur.trans (by omega)

end

@[simp] theorem fieldChar_assemble {cop d a c : Nat} {ch : Byte} (h : FieldsFit cop d a ch.toNat c) :
    fieldChar (assemble cop d a ch.toNat c) = ch :=
  BitVec.eq_of_toNat_eq (fieldB_assemble h)

@[simp] theorem fieldFlag_assemble {cop d a b : Nat} {dp : Bool} (h : FieldsFit cop d a b dp.toNat) :
    fieldFlag (assemble cop d a b dp.toNat) = dp := by
  have hlow : (assemble cop d a b dp.toNat).toNat % 2 = dp.toNat := by
    rw [toNat_assemble h]
    have := dp.toNat_lt
    omega
  rw [fieldFlag, BitVec.getLsbD, Nat.testBit_zero, hlow]
  cases dp <;> rfl

@[simp] theorem fieldDur_assemble {cop d : Nat} {dur : Duration}
    (h : FieldsFit cop d (dur.toNat / 2 ^ 16) (dur.toNat / 2 ^ 8 % 2 ^ 8) (dur.toNat % 2 ^ 8)) :
    fieldDur (assemble cop d (dur.toNat / 2 ^ 16) (dur.toNat / 2 ^ 8 % 2 ^ 8) (dur.toNat % 2 ^ 8)) = dur := by
  apply BitVec.eq_of_toNat_eq
  rw [toNat_fieldDur_assemble h]
  omega

/-! ## Wire frames: one instruction per register (rule R99) -/

theorem encode_of_mem_wireWrites {ops : WireOps} {data : Byte} :
    ∀ e ∈ wireWrites ops data, encode ops e.1 = .wire (mkFrame e.2 data) := by
  simp [wireWrites, encode]

theorem wf_of_mem_wireWrites {ops : WireOps} {data : Byte} : ∀ e ∈ wireWrites ops data, e.1.wf = true := by
  simp [wireWrites, Instr.wf]

/-- The instructions of the rows are the ones that write a register, each the row's own. -/
theorem mem_wireWrites {ops : WireOps} {data : Byte} {e : Instr × Byte} :
    e ∈ wireWrites ops data ↔ ∃ row ∈ wireRows ops, (row.2 data, row.1) = e := by
  rw [← List.mem_map (f := fun row : Byte × (Byte → Instr) => (row.2 data, row.1))]
  rfl

/-- Whatever a wire frame decodes to is the no-op, or writes the register of the frame's opcode. -/
theorem mem_wireWrites_of_decodeWire {ops : WireOps} {f : WireFrame} {i : Instr} (h : decodeWire ops f = .ok i) :
    (f = 0 ∧ i = .wNoop) ∨ (i, frameOp f) ∈ wireWrites ops (frameData f) := by
  rcases decodeWire_cases h with hnoop | ⟨row, hrow, hop, -, rfl⟩
  · exact .inl hnoop
  · exact .inr (mem_wireWrites.mpr ⟨row, hrow, by rw [hop]⟩)

theorem decode_encode_wire {ops : WireOps} (ho : opsWf ops) {i : Instr}
    (h : ∃ data op, (i, op) ∈ wireWrites ops data) : decode ops (encode ops i) = .ok i := by
  obtain ⟨data, op, h⟩ := h
  rw [encode_of_mem_wireWrites _ h]
  obtain ⟨row, hrow, heq⟩ := mem_wireWrites.mp h
  obtain ⟨rfl, rfl⟩ := Prod.mk.inj heq
  exact decodeWire_row ho hrow data

/-! ## Decoding and encoding -/

@[simp] theorem fitsAddr_iff {d : Nat} : fitsAddr d = true ↔ d < 16 := by simp [fitsAddr]

@[simp] theorem fitsByte_iff {x : Nat} : fitsByte x = true ↔ x < 256 := by simp [fitsByte]

/-- Settles O2: the fields of an assembled word are what was put in, and an admissible opcode map has one row per
opcode. -/
theorem decodeEncodeRoundTrip : Obligations.DecodeEncodeRoundTrip := by
  intro ops i ho hwf
  cases i with
  | devcnt | reserved0 | reservedE | reservedF | wNoop => rfl
  | shutdn d on =>
    have hf : FieldsFit 0x2 d 0 0 on.toNat := { addr := by simpa [Instr.wf] using hwf, c := Laws.toNat_lt_256 on }
    simp [encode, decode, decodeCommand, hf]
  | scanlim d limit =>
    obtain ⟨hd, hl⟩ : d < 16 ∧ limit < 256 := by simpa [Instr.wf] using hwf
    have hf : FieldsFit 0x3 d 0 limit 0 := { addr := hd, b := hl }
    simp [encode, decode, decodeCommand, hf]
  | intens d level =>
    obtain ⟨hd, hl⟩ : d < 16 ∧ level < 256 := by simpa [Instr.wf] using hwf
    have hf : FieldsFit 0x4 d 0 level 0 := { addr := hd, b := hl }
    simp [encode, decode, decodeCommand, hf]
  | clear d =>
    have hf : FieldsFit 0x5 d 0 0 0 := { addr := by simpa [Instr.wf] using hwf }
    simp [encode, decode, decodeCommand, hf]
  | setdigit d pos val dp =>
    obtain ⟨⟨hd, hp⟩, hv⟩ : (d < 16 ∧ pos < 256) ∧ val < 256 := by simpa [Instr.wf] using hwf
    have hf : FieldsFit 0x6 d pos val dp.toNat := { addr := hd, a := hp, b := hv, c := Laws.toNat_lt_256 dp }
    simp [encode, decode, decodeCommand, hf]
  | setchar d pos ch dp =>
    obtain ⟨hd, hp⟩ : d < 16 ∧ pos < 256 := by simpa [Instr.wf] using hwf
    have hf : FieldsFit 0x7 d pos ch.toNat dp.toNat :=
      { addr := hd, a := hp, b := ch.isLt, c := Laws.toNat_lt_256 dp }
    simp [encode, decode, decodeCommand, hf]
  | init d =>
    have hf : FieldsFit 0x8 d 0 0 0 := { addr := by simpa [Instr.wf] using hwf }
    simp [encode, decode, decodeCommand, hf]
  | rdshadow d pos =>
    obtain ⟨hd, hp⟩ : d < 16 ∧ pos < 256 := by simpa [Instr.wf] using hwf
    have hf : FieldsFit 0x9 d pos 0 0 := { addr := hd, a := hp }
    simp [encode, decode, decodeCommand, hf]
  | txtwr idx ch dp =>
    have hf : FieldsFit 0xA 0 idx ch.toNat dp.toNat :=
      { a := by simpa [Instr.wf] using hwf, b := ch.isLt, c := Laws.toNat_lt_256 dp }
    simp [encode, decode, decodeCommand, hf]
  | txtlen len =>
    have hf : FieldsFit 0xB 0 len 0 0 := { a := by simpa [Instr.wf] using hwf }
    simp [encode, decode, decodeCommand, hf]
  | frame d off =>
    obtain ⟨hd, hoff⟩ : d < 16 ∧ off < 256 := by simpa [Instr.wf] using hwf
    have hf : FieldsFit 0xC d off 0 0 := { addr := hd, a := hoff }
    simp [encode, decode, decodeCommand, hf]
  | render d dur =>
    have hlt := dur.isLt
    have hf : FieldsFit 0xD d (dur.toNat / 2 ^ 16) (dur.toNat / 2 ^ 8 % 2 ^ 8) (dur.toNat % 2 ^ 8) :=
      { addr := by simpa [Instr.wf] using hwf, a := by omega, b := by omega, c := by omega }
    simp only [encode, decode, decodeCommand, opcode_assemble hf, fieldAddr_assemble hf, fieldDur_assemble hf]
  | wDigit0 _ | wDigit1 _ | wDigit2 _ | wDigit3 _ | wDigit4 _ | wDigit5 _ | wDigit6 _ | wDigit7 _ | wDecodemode _
  | wIntensity _ | wScanlimit _ | wShutdown _ | wDisplaytest _ => exact decode_encode_wire ho (by simp [wireWrites])

/-- Settles O1, by evaluating the decoder. -/
theorem specWordsDecode : Obligations.SpecWordsDecode := by
  unfold Obligations.SpecWordsDecode
  decide

/-- Settles O3: a frame is its opcode and its data byte, and the encoder puts both back. -/
theorem decodedFramesEncodeBack : Obligations.DecodedFramesEncodeBack := by
  intro ops f i h
  rcases mem_wireWrites_of_decodeWire h with ⟨rfl, rfl⟩ | hrow
  · rfl
  · rw [encode_of_mem_wireWrites _ hrow, mkFrame_eta]

theorem decodeCommand_wf (w : CommandWord) : (decodeCommand w).wf = true := by
  unfold decodeCommand
  split <;> simp [Instr.wf, fieldAddr_lt, fieldA_lt, fieldB_lt]

/-- Settles O4: a field of a word fits the field, and a data byte is a byte. -/
theorem decodedInstructionsAreWellFormed : Obligations.DecodedInstructionsAreWellFormed := by
  refine ⟨fun ops c i h => ?_, fun _ w => ⟨decodeCommand w, rfl⟩⟩
  cases c with
  | command w => cases h; exact decodeCommand_wf w
  | wire f =>
    rcases mem_wireWrites_of_decodeWire h with ⟨-, rfl⟩ | hrow
    · rfl
    · exact wf_of_mem_wireWrites _ hrow

/-! ## Unused bits (rules R81, R83) -/

/-- Words that agree under a mask agree on every field the mask covers. -/
theorem extractLsb'_eq_of_and_eq {w w' m : CommandWord} (h : w &&& m = w' &&& m) {lo len : Nat}
    (hm : m.extractLsb' lo len = BitVec.allOnes len) : w.extractLsb' lo len = w'.extractLsb' lo len := by
  have hf := congrArg (BitVec.extractLsb' lo len) h
  rwa [BitVec.extractLsb'_and, BitVec.extractLsb'_and, hm, BitVec.and_allOnes, BitVec.and_allOnes] at hf

section
variable {w w' m : CommandWord} (h : w &&& m = w' &&& m)
include h

theorem cmdField_eq_of_and_eq {lo len : Nat} (hm : m.extractLsb' lo len = BitVec.allOnes len) :
    cmdField w lo len = cmdField w' lo len :=
  congrArg BitVec.toNat (extractLsb'_eq_of_and_eq h hm)

theorem fieldAddr_eq_of_and_eq (hm : m.extractLsb' 24 4 = BitVec.allOnes 4) : fieldAddr w = fieldAddr w' :=
  cmdField_eq_of_and_eq h hm

theorem fieldA_eq_of_and_eq (hm : m.extractLsb' 16 8 = BitVec.allOnes 8) : fieldA w = fieldA w' :=
  cmdField_eq_of_and_eq h hm

theorem fieldB_eq_of_and_eq (hm : m.extractLsb' 8 8 = BitVec.allOnes 8) : fieldB w = fieldB w' :=
  cmdField_eq_of_and_eq h hm

theorem fieldChar_eq_of_and_eq (hm : m.extractLsb' 8 8 = BitVec.allOnes 8) : fieldChar w = fieldChar w' :=
  extractLsb'_eq_of_and_eq h hm

theorem fieldDur_eq_of_and_eq (hm : m.extractLsb' 0 24 = BitVec.allOnes 24) : fieldDur w = fieldDur w' :=
  extractLsb'_eq_of_and_eq h hm

theorem fieldFlag_eq_of_and_eq (hm : m.extractLsb' 0 1 = BitVec.allOnes 1) : fieldFlag w = fieldFlag w' := by
  have hbit := congrArg (·.getLsbD 0) (extractLsb'_eq_of_and_eq h hm)
  simpa [fieldFlag] using hbit

end

theorem usedMask_opcode (cop : Nat) : (usedMask cop).extractLsb' 28 4 = BitVec.allOnes 4 := by
  unfold usedMask
  split <;> rfl

/-- Settles O5: every mask covers the opcode, and then the fields that opcode's format has. -/
theorem unusedCommandBitsAreIgnored : Obligations.UnusedCommandBitsAreIgnored := by
  intro w w' h
  have hcop : cmdField w 28 4 = cmdField w' 28 4 := cmdField_eq_of_and_eq h (usedMask_opcode _)
  unfold decodeCommand
  rw [← hcop]
  generalize cmdField w 28 4 = cop at h
  split
  case h_1 | h_2 | h_15 | h_16 => rfl
  case h_3 => rw [fieldAddr_eq_of_and_eq h rfl, fieldFlag_eq_of_and_eq h rfl]
  case h_4 | h_5 => rw [fieldAddr_eq_of_and_eq h rfl, fieldB_eq_of_and_eq h rfl]
  case h_6 | h_9 => rw [fieldAddr_eq_of_and_eq h rfl]
  case h_7 =>
    rw [fieldAddr_eq_of_and_eq h rfl, fieldA_eq_of_and_eq h rfl, fieldB_eq_of_and_eq h rfl,
      fieldFlag_eq_of_and_eq h rfl]
  case h_8 =>
    rw [fieldAddr_eq_of_and_eq h rfl, fieldA_eq_of_and_eq h rfl, fieldChar_eq_of_and_eq h rfl,
      fieldFlag_eq_of_and_eq h rfl]
  case h_10 | h_13 => rw [fieldAddr_eq_of_and_eq h rfl, fieldA_eq_of_and_eq h rfl]
  case h_11 => rw [fieldA_eq_of_and_eq h rfl, fieldChar_eq_of_and_eq h rfl, fieldFlag_eq_of_and_eq h rfl]
  case h_12 => rw [fieldA_eq_of_and_eq h rfl]
  case h_14 => rw [fieldAddr_eq_of_and_eq h rfl, fieldDur_eq_of_and_eq h rfl]

end Sys2Proof

namespace Sys2Proof.Machine

/-! ## Commands that are ignored (rules R84, R95) -/

@[simp] theorem valOk_iff {v : Nat} : valOk v = true ↔ v ≤ 15 := by simp [valOk]

@[simp] theorem limitOk_iff {l : Nat} : limitOk l = true ↔ 1 ≤ l ∧ l ≤ 8 := by simp [limitOk]

@[simp] theorem levelOk_iff {l : Nat} : levelOk l = true ↔ l ≤ 15 := by simp [levelOk]

theorem exec_of_ignored {i : Instr} {s : State} (h : instrActions i s = ignoreActions) : exec i s = .next s := by
  rw [exec_eq_run, h]
  rfl

/-- Settles O15: the range check fails, so the command has no actions. -/
theorem outOfRangeCommandsAreIgnored : Obligations.OutOfRangeCommandsAreIgnored := by
  intro s d
  refine ⟨fun hd => ?_, fun limit hl => ?_, fun level hl => ?_, fun pos val ch dp hp => ?_, fun pos val dp hv => ?_,
    fun idx ch dp hi => ?_, fun len _ hl => ?_⟩
  · have hdev : ¬ devOk s.par d = true := by simpa using hd
    exact ⟨fun _ => exec_of_ignored (if_neg hdev), fun _ => exec_of_ignored (if_neg (by simp [hdev])),
      fun _ => exec_of_ignored (if_neg (by simp [hdev])), exec_of_ignored (if_neg hdev), exec_of_ignored (if_neg hdev),
      fun _ _ _ => exec_of_ignored (if_neg (by simp [hdev])), fun _ _ _ => exec_of_ignored (if_neg (by simp [hdev])),
      fun _ => exec_of_ignored (if_neg hdev), fun _ => exec_of_ignored (if_neg hdev)⟩
  · exact exec_of_ignored (if_neg (by simp; omega))
  · exact exec_of_ignored (if_neg (by simp; omega))
  · exact ⟨exec_of_ignored (if_neg (by simp; omega)), exec_of_ignored (if_neg (by simp; omega))⟩
  · exact exec_of_ignored (if_neg (by simp; omega))
  · exact exec_of_ignored (if_neg (by simp; omega))
  · exact exec_of_ignored (if_neg (by simp; omega))

/-- Settles O16: a word that carries a reserved opcode decodes to its row, and the rows have no actions. -/
theorem reservedCommandsChangeNothing : Obligations.ReservedCommandsChangeNothing := by
  refine ⟨fun s => ⟨rfl, rfl, rfl⟩, fun w s hw => ?_⟩
  unfold decodeCommand
  simp only [List.mem_cons, List.not_mem_nil, or_false] at hw
  rcases hw with hw | hw | hw <;> rw [hw] <;> rfl

/-! ## One transaction (rules R161 to R163, R180) -/

theorem runActions_control {s : State} {d : Nat} {op : Byte} (hI : s.Inv) (hd : d < s.par.devices)
    (hop : op ∈ controlOps s.par.ops) (data : Byte) :
    runActions (transmitActions s.par d op data) s = .next (s.afterTransaction d op data) :=
  runActions_transmit s d op data hd (controlOps_ne_noop (opsWf_of_paramsWf hI.1) hop)

theorem exec_of_actions {i : Instr} {s t : State} {acts : List Action} (hi : instrActions i s = acts)
    (h : runActions acts s = .next t) : exec i s = .next t := by
  rw [exec_eq_run, hi, h]

/-- Settles O13: in range the command's actions are one transaction with its opcode and data byte. -/
theorem controlCommandsMakeOneTransaction : Obligations.ControlCommandsMakeOneTransaction := by
  intro s d hI hd
  have hdev : devOk s.par d = true := devOk_iff.mpr hd
  refine ⟨?_, ?_, fun limit h1 h8 => ?_, fun level hl => ?_⟩
  · exact exec_of_actions (if_pos hdev) (runActions_control hI hd (by simp) _)
  · exact exec_of_actions (if_pos hdev) (runActions_control hI hd (by simp) _)
  · exact exec_of_actions (if_pos (by simp [hd, h1, h8])) (runActions_control hI hd (by simp) _)
  · exact exec_of_actions (if_pos (by simp [hd, hl])) (runActions_control hI hd (by simp) _)

/-! ## Glyphs with the decimal point (rules R90, R113) -/

theorem Mem.mem_of_read {α : Type} {m : List (Nat × α)} {k : Nat} {v : α} (h : Mem.read m k = some v) :
    (k, v) ∈ m := by
  induction m with
  | nil => cases h
  | cons e rest ih =>
    obtain ⟨a, w⟩ := e
    simp only [Mem.read] at h
    split at h
    · next ha => cases h; subst ha; exact List.mem_cons_self
    · exact List.mem_cons_of_mem _ (ih h)

/-- No entry of an admissible table carries a decimal point, listed or free. -/
theorem romRead_getLsbD_seven {p : Params} (h : romWf p.glyphRom) (c : BitVec 7) : (romRead p c).getLsbD 7 = false := by
  obtain ⟨-, hentries, -⟩ := h
  unfold romRead
  split
  · next g hg => exact (hentries _ (Mem.mem_of_read hg)).2
  · rw [BitVec.getLsbD_append]
    rfl

theorem encodeChar_getLsbD_seven {p : Params} (h : paramsWf p) (c : Byte) : (encodeChar p c).getLsbD 7 = false := by
  obtain ⟨-, -, hrom, -⟩ := h
  unfold encodeChar
  split
  · rfl
  · exact romRead_getLsbD_seven hrom _

/-- Merging the flag into a glyph without a decimal point puts it in bit 7, above the seven segments. -/
theorem mergeDp_eq_append {g : Byte} (hg : g.getLsbD 7 = false) (dp : Bool) :
    mergeDp g dp = BitVec.ofBool dp ++ g.extractLsb' 0 7 := by
  apply BitVec.eq_of_getLsbD_eq
  intro i hi
  simp only [mergeDp, BitVec.getLsbD_or, BitVec.getLsbD_append, BitVec.getLsbD_extractLsb', Nat.zero_add]
  by_cases h7 : i < 7
  · have hbit : (if dp then 0x80 else 0x00 : Byte).getLsbD i = false := by
      revert dp i; decide
    simp only [h7, hbit, decide_true, Bool.true_and, Bool.or_false, if_true]
  · obtain rfl : i = 7 := by omega
    rw [hg]
    cases dp <;> rfl

/-- A digit write in range: one transaction, and the same byte in the one shadow register. -/
theorem runActions_writeDigit {s : State} {d pos : Nat} (hI : s.Inv) (hd : d < s.par.devices) (hp : pos ≤ 7)
    (pat : Byte) :
    ∃ t, runActions (writeDigitActions s.par d pos pat) s = .next t ∧
      t = { s.afterTransaction d (digitOp s.par.ops pos) pat with shadow := t.shadow } ∧
      ∀ d' i', i' < 8 → t.shadowAt d' i' = if d' = d ∧ i' = pos then pat else s.shadowAt d' i' := by
  obtain ⟨hpar, hlen, -⟩ := hI
  have hops := opsWf_of_paramsWf hpar
  have hi : pos < 8 := Nat.lt_succ_of_le hp
  refine ⟨(s.setShadow d pos pat).afterTransaction d (digitOp s.par.ops pos) pat, ?_, rfl, ?_⟩
  · rw [runActions_eq_foldl _ _ (writeDigitActions_stops _ _ _ _),
      foldl_writeDigit s d pos pat hd (op_ne_noop hops (digitOp_mem hops hi))]
  · exact fun d' i' hi' => s.shadowAt_setShadow d pos pat hlen hd hi d' i' hi'

/-- Settles O18: a digit write of the merged glyph, and the glyph leaves bit 7 to the flag. -/
theorem setdigitWritesHexGlyph : Obligations.SetdigitWritesHexGlyph := by
  intro s d pos val dp hI hd hp hv pat
  have hpat : mergeDp (hexGlyph s.par val) dp = pat := by
    rw [hexGlyph, mergeDp_eq_append (encodeChar_getLsbD_seven hI.1 _), hexChar, ← apply_ite]
  obtain ⟨t, hrun, ht⟩ := runActions_writeDigit hI hd hp pat
  refine ⟨t, exec_of_actions (if_pos (by simp [hd, hp, hv])) ?_, ht⟩
  rw [hpat]
  exact hrun

/-- Settles O19: as O18, with the character's own glyph. -/
theorem setcharWritesGlyph : Obligations.SetcharWritesGlyph := by
  intro s d pos ch dp hI hd hp pat
  have hpat : mergeDp (encodeChar s.par ch) dp = pat := mergeDp_eq_append (encodeChar_getLsbD_seven hI.1 ch) dp
  obtain ⟨t, hrun, ht⟩ := runActions_writeDigit hI hd hp pat
  refine ⟨t, exec_of_actions (if_pos (by simp [hd, hp])) ?_, ht⟩
  rw [hpat]
  exact hrun

/-! ## Wire frames (rule R139) -/

/-- Executing an instruction that writes a register writes it at the device in `State.pos`, and that alone. -/
theorem exec_of_mem_wireWrites {s : State} {data : Byte} :
    ∀ e ∈ wireWrites s.par.ops data, exec e.1 s = .next (s.writeDevice s.pos e.2 data) := by
  simp [wireWrites, exec_eq_run, instrActions, runActions, Action.stops, State.act]

/-- Settles O31: one register write, read back at every register of every device. -/
theorem wireFramesWriteOneRegister : Obligations.WireFramesWriteOneRegister := by
  intro s data
  refine ⟨rfl, fun i op h => ?_⟩
  exact ⟨_, exec_of_mem_wireWrites _ h, rfl, fun q op' => s.devAt_writeDevice s.pos q op op' data⟩

/-! ## Steps on a command (rules R85, R300) -/

theorem step_command {s : State} {w : CommandWord} {rest : List HostMove} (h : s.host = .command w :: rest) :
    step s = if s.ready then exec (decodeCommand w) { s with host := rest } else .refused .commandWhileBusy := by
  simp only [step, hostStep, h, presentCommand]

/-- Settles O36: the move is consumed and the decoded instruction run, unless the block is busy. -/
theorem stepRunsPresentedCommand : Obligations.StepRunsPresentedCommand := by
  intro s w rest h
  rw [step_command h]
  refine ⟨fun hs ops i hi => ?_, fun job hs => ?_⟩
  · cases hi
    simp [State.ready, hs]
  · simp [State.ready, hs]

/-! ## The response port (rule R86) -/

/-- The actions emit no response but through the response port. -/
def RespondsByPort (acts : List Action) : Prop := ∀ v, .emit (.resp v) ∉ acts

theorem RespondsByPort.append {as bs : List Action} (ha : RespondsByPort as) (hb : RespondsByPort bs) :
    RespondsByPort (as ++ bs) :=
  fun v h => (List.mem_append.mp h).elim (ha v) (hb v)

theorem transmitActions_respondsByPort (p : Params) (t : Nat) (op data : Byte) :
    RespondsByPort (transmitActions p t op data) := by
  intro v h
  simpa using mem_transmitActions h

theorem writeDigitActions_respondsByPort (p : Params) (d i : Nat) (pat : Byte) :
    RespondsByPort (writeDigitActions p d i pat) := by
  exact fun v h => transmitActions_respondsByPort _ _ _ _ v (by simpa [writeDigitActions] using h)

theorem Transfers.respondsByPort {p : Params} {acts : List Action} (h : Transfers p acts) : RespondsByPort acts := by
  induction h with
  | nil => exact fun _ => List.not_mem_nil
  | digit pat _ _ => exact writeDigitActions_respondsByPort _ _ _ _
  | control data _ _ => exact transmitActions_respondsByPort _ _ _ _
  | unwritten k => simp [RespondsByPort]
  | append _ _ iha ihb => exact iha.append ihb

theorem commandActions_respondsByPort (i : Instr) (s : State) : RespondsByPort (commandActions i s) := by
  have hc := commandCase i s
  generalize commandActions i s = acts at hc
  cases hc with
  | control data hd hop => exact transmitActions_respondsByPort _ _ _ _
  | shows _ h =>
    cases h with
    | done h => exact h.respondsByPort
    | wait h _ => exact h.respondsByPort.append (by simp [RespondsByPort])
  | _ => simp [RespondsByPort, ignoreActions]

theorem refreshActions_respondsByPort (s : State) (d o : Nat) : RespondsByPort (refreshActions s d o) := by
  intro v h
  obtain ⟨j, -, hj⟩ := List.mem_flatMap.mp h
  unfold slotActions at hj
  split at hj
  · exact writeDigitActions_respondsByPort _ _ _ _ v hj
  · simp at hj

theorem scrollFrameActions_respondsByPort (s : State) (job : ScrollJob) :
    RespondsByPort (scrollFrameActions s job) := by
  refine (refreshActions_respondsByPort s _ _).append ?_
  split <;> simp [RespondsByPort]

theorem resumeActions_respondsByPort (s : State) (job : ScrollJob) : RespondsByPort (resumeActions job s) := by
  intro v h
  simp only [resumeActions, List.mem_cons, reduceCtorEq, false_or] at h
  split at h
  · exact scrollFrameActions_respondsByPort s job v h
  · cases h

/-- Only a response emitted past the port could set the trace and the port apart. -/
theorem State.RspOk.act {s : State} {a : Action} (h : s.RspOk) (ha : ∀ v, a ≠ .emit (.resp v)) :
    (s.act a).RspOk := by
  cases a with
  | emit e =>
    cases e with
    | resp v => exact absurd rfl (ha v)
    | _ => exact h
  | respond v => rfl
  | _ => exact h

theorem State.RspOk.foldl_act {s : State} {acts : List Action} (h : s.RspOk) (ha : RespondsByPort acts) :
    (acts.foldl State.act s).RspOk :=
  List.foldlRecOn acts _ h fun _ ht _ hm => ht.act fun v e => ha v (e ▸ hm)

/-- Settles O46: no command emits a response past the port, reset clears both, and no other move touches either. -/
theorem stepKeepsResponsePort : Obligations.StepKeepsResponsePort := by
  intro s t hs h
  cases step_cases h with
  | same rest h => subst h; exact hs
  | command w rest _ h =>
    rw [exec_command_eq_run] at h
    rw [(runActions_next h).1]
    exact State.RspOk.foldl_act (s := { s with host := rest }) hs (commandActions_respondsByPort _ _)
  | resume job rest _ h =>
    rw [(runActions_next h).1]
    exact State.RspOk.foldl_act (s := { s with host := rest }) hs (resumeActions_respondsByPort _ _)
  | reset rest acts _ h => subst h; rfl
  | foreign rest q f acts _ ha h =>
    rcases ha with rfl | ⟨op, data, -, rfl⟩ <;> subst h <;> exact hs
  | powerUp rest p _ h => subst h; exact hs

end Sys2Proof.Machine

/-! # Proofs of the family 40_encoder -/

namespace Sys2Proof.Machine

/-- Settles O47: no action and no move of the environment writes the parameters, and reset keeps them. -/
theorem stepKeepsParameters : Obligations.StepKeepsParameters := fun _ _ => step_par

/-- Settles O7: listed entries carry no decimal point by admissibility, free ones by their form. -/
theorem encodedGlyphsHaveNoDecimalPoint : Obligations.EncodedGlyphsHaveNoDecimalPoint :=
  fun _ c h => encodeChar_getLsbD_seven h c

/-! ## The two halves of the character codes (rule R110) -/

theorem getLsbD_seven_iff {c : Byte} : c.getLsbD 7 = true ↔ 128 ≤ c.toNat := by
  have hlast : c.getLsbD 7 = decide (128 ≤ c.toNat) := c.getLsbD_last
  rw [hlast, decide_eq_true_iff]

theorem encodeChar_of_ge (p : Params) {c : Byte} (h : 128 ≤ c.toNat) : encodeChar p c = 0x00 :=
  if_pos (getLsbD_seven_iff.mpr h)

theorem encodeChar_of_lt (p : Params) {c : Byte} (h : c.toNat < 128) :
    encodeChar p c = romRead p (BitVec.ofNat 7 c.toNat) :=
  if_neg fun h7 => Nat.not_le.mpr h (getLsbD_seven_iff.mp h7)

/-- Settles O6: bit 7 of the code tells the halves apart. -/
theorem encodeIsTableOrBlank : Obligations.EncodeIsTableOrBlank :=
  fun p _ => ⟨encodeChar_of_ge p, encodeChar_of_lt p⟩

/-! ## Listed glyphs and the hexadecimal digits (rules R114, R115, R121) -/

/-- A listed code encodes to its listed entry. -/
theorem some_encodeChar {p : Params} {c : Byte} (hc : c.toNat < 128)
    (hlisted : (Mem.read p.glyphRom c.toNat).isSome) : some (encodeChar p c) = Mem.read p.glyphRom c.toNat := by
  obtain ⟨g, hg⟩ := Option.isSome_iff_exists.mp hlisted
  rw [encodeChar_of_lt p hc, romRead, BitVec.toNat_ofNat, Nat.mod_eq_of_lt hc, hg]

theorem hexCodes_lt : ∀ k ∈ hexCodes, k < 128 := by decide

theorem hexChar_mem_hexCodes : ∀ v < 16, (hexChar v).toNat ∈ hexCodes := by decide

theorem hexChar_inj : ∀ v < 16, ∀ w < 16, hexChar v = hexChar w → v = w := by decide

/-- The glyph of a hexadecimal digit is the listed entry of its character. -/
theorem some_hexGlyph {p : Params} (h : romWf p.glyphRom) {v : Nat} (hv : v < 16) :
    some (hexGlyph p v) = Mem.read p.glyphRom (hexChar v).toNat := by
  obtain ⟨-, -, hlit, -⟩ := h
  have hmem := hexChar_mem_hexCodes v hv
  exact some_encodeChar (hexCodes_lt _ hmem) (hlit _ hmem).1

theorem hexGlyph_ne_blank {p : Params} (h : romWf p.glyphRom) {v : Nat} (hv : v < 16) : hexGlyph p v ≠ 0x00 := by
  have ⟨_, _, hlit, _⟩ := h
  have hne : some (hexGlyph p v) ≠ some 0x00 := some_hexGlyph h hv ▸ (hlit _ (hexChar_mem_hexCodes v hv)).2
  exact fun hblank => hne (congrArg some hblank)

theorem hexGlyph_inj {p : Params} (h : romWf p.glyphRom) {v w : Nat} (hv : v < 16) (hw : w < 16)
    (heq : hexGlyph p v = hexGlyph p w) : v = w := by
  have hread : Mem.read p.glyphRom (hexChar v).toNat = Mem.read p.glyphRom (hexChar w).toNat := by
    rw [← some_hexGlyph h hv, ← some_hexGlyph h hw, heq]
  obtain ⟨-, -, -, hnodup, -⟩ := h
  have hcode : (hexChar v).toNat = (hexChar w).toNat :=
    List.inj_on_of_nodup_map hnodup (hexChar_mem_hexCodes v hv) (hexChar_mem_hexCodes w hw) hread
  exact hexChar_inj v hv w hw (BitVec.eq_of_toNat_eq hcode)

/-- A code whose table entry is another's listed one encodes as that other code. -/
theorem encodeChar_eq_of_read_eq {p : Params} {c d : Byte} (hc : c.toNat < 128) (hd : d.toNat < 128)
    (hlisted : (Mem.read p.glyphRom d.toNat).isSome)
    (heq : Mem.read p.glyphRom c.toNat = Mem.read p.glyphRom d.toNat) : encodeChar p c = encodeChar p d :=
  Option.some.inj <| by rw [some_encodeChar hc (heq ▸ hlisted), some_encodeChar hd hlisted, heq]

/-- Settles O8: admissibility lists all these characters, so their glyphs are the listed entries it speaks of. -/
theorem hexGlyphsAreLitAndDistinct : Obligations.HexGlyphsAreLitAndDistinct := by
  intro p hp
  obtain ⟨-, -, hrom, -⟩ := hp
  have ⟨_, _, _, _, hH, hK, hX⟩ := hrom
  refine ⟨fun v hv => hexGlyph_ne_blank hrom hv, fun v hv w hw hne heq => hne (hexGlyph_inj hrom hv hw heq), ?_, ?_⟩
  · exact encodeChar_eq_of_read_eq (by decide) (by decide) hH hK
  · exact encodeChar_eq_of_read_eq (by decide) (by decide) hH hX

end Sys2Proof.Machine

/-! # Proofs of the family 41_serial_bus: the shift chain, the commit, the frame vector -/

namespace Sys2Proof.Machine

/-! ## Shifting (rule R138) -/

/-- One shift of a full register: the bit enters at the bottom, the top bit is lost. -/
theorem shiftIn_eq_cons_dropLast {n : Nat} {sr : List Bool} (b : Bool) (hn : 0 < n) (hsr : sr.length = 16 * n) :
    shiftIn n sr b = b :: sr.dropLast := by
  obtain ⟨k, hk⟩ : ∃ k, 16 * n = k + 1 := ⟨16 * n - 1, by omega⟩
  rw [shiftIn, hk, List.take_succ_cons, List.dropLast_eq_take, hsr, hk, Nat.add_sub_cancel]

/-- The bits of a vector of frames, one per device, replace the register's content whole. -/
theorem foldl_shiftIn_shiftOrder (frames : List WireFrame) (sr : List Bool) (h : 0 < frames.length) :
    (shiftOrder frames).foldl (shiftIn frames.length) sr = frames.flatMap frameBits := by
  rw [foldl_shiftIn_full _ _ _ h (shiftOrder_length frames), shiftOrder_reverse]

/-- Settles O9: the vector's bits fill the register, and each frame stands in it at its own position. -/
theorem shiftedVectorReplacesRegister : Obligations.ShiftedVectorReplacesRegister := by
  refine ⟨fun s hn hsr => shiftIn_eq_cons_dropLast s.dataPin hn hsr, frameAt_getLsbD, fun frames sr p hp => ?_⟩
  have hread := frameAt_flatMap frames p hp []
  rwa [List.append_nil, ← foldl_shiftIn_shiftOrder frames sr (Nat.zero_lt_of_lt hp)] at hread

/-! ## The commit (rule R139) -/

/-- Reading a device register after one device's commit. -/
theorem read_commitFrame (dev : List (Nat × Byte)) (p q : Nat) (f : WireFrame) (op : Byte) :
    Mem.read (commitFrame dev p f) (devKey q op) =
      if q = p ∧ op ≠ opNoop ∧ frameOp f = op then some (frameData f) else Mem.read dev (devKey q op) := by
  unfold commitFrame
  split
  · next hnoop => rw [if_neg fun ⟨_, hop, hf⟩ => hop (hf ▸ hnoop)]
  · next hnoop =>
    rw [Mem.read_write]
    refine if_congr ?_ rfl rfl
    rw [devKey_inj]
    constructor
    · rintro ⟨rfl, rfl⟩; exact ⟨rfl, hnoop, rfl⟩
    · rintro ⟨rfl, -, rfl⟩; exact ⟨rfl, rfl⟩

theorem commitAll_succ (n : Nat) (sr : List Bool) (dev : List (Nat × Byte)) :
    commitAll (n + 1) sr dev = commitFrame (commitAll n sr dev) n (frameAt sr n) := by
  simp [commitAll, List.range_succ]

/-- Reading a device register after the whole chain's commit: a device's register depends on the frame it holds alone. -/
theorem read_commitAll (n : Nat) (sr : List Bool) (dev : List (Nat × Byte)) (p : Nat) (op : Byte) :
    Mem.read (commitAll n sr dev) (devKey p op) =
      if p < n ∧ op ≠ opNoop ∧ frameOp (frameAt sr p) = op then some (frameData (frameAt sr p))
      else Mem.read dev (devKey p op) := by
  induction n with
  | zero => simp [commitAll]
  | succ n ih =>
    rw [commitAll_succ, read_commitFrame, ih]
    by_cases hp : p = n
    · subst hp; simp
    · have hlt : p < n + 1 ↔ p < n := by omega
      simp only [hp, hlt, false_and, if_false]

theorem State.devAt_latchRise (s : State) (p : Nat) (op : Byte) :
    s.latchRise.devAt p op =
      if p < s.par.devices ∧ op ≠ opNoop ∧ frameOp (frameAt s.sr p) = op then frameData (frameAt s.sr p)
      else s.devAt p op := by
  simp only [State.devAt, State.powerUpCount, State.latchRise_dev, State.latchRise_powerUps, read_commitAll]
  split <;> rfl

/-- Settles O10: the pulse commits at its leading edge, and its other two actions leave the devices alone. -/
theorem latchCommitsEveryDevice : Obligations.LatchCommitsEveryDevice :=
  fun s => ⟨_, rfl, s.devAt_latchRise, rfl⟩

/-! ## The frame vector (rules R131, R141) -/

theorem mkFrame_ne_zero {op : Byte} (hop : op ≠ opNoop) (data : Byte) : mkFrame op data ≠ 0 := by
  intro h
  have hops := congrArg frameOp h
  rw [mkFrame_op, frameOp_zero] at hops
  exact hop hops

theorem frameVector_getElem? {n p : Nat} (t : Nat) (f : WireFrame) (hp : p < n) :
    (frameVector n t f)[p]? = some (if p = t then f else 0) := by
  rw [List.getElem?_eq_getElem (by simpa using hp), frameVector_getElem]

/-- A frame of the vector is non-zero only at the target, and the target is one position of the chain. -/
theorem countP_frameVector {n t : Nat} {f : WireFrame} (ht : t < n) (hf : f ≠ 0) :
    (frameVector n t f).countP (fun g => decide (g ≠ 0)) = 1 := by
  have hnonzero : ((fun g : WireFrame => decide (g ≠ 0)) ∘ fun p => if p = t then f else 0) = (· == t) := by
    funext p
    by_cases hp : p = t
    · simpa [hp] using hf
    · simp [hp]
  rw [frameVector, List.countP_map, hnonzero]
  exact List.count_eq_one_of_mem List.nodup_range (List.mem_range.mpr ht)

theorem frameVector_zero (n t : Nat) : frameVector n t 0 = List.replicate n 0 := by
  simp [frameVector]

/-- Settles O11: the vector is the frame at the target and zero elsewhere, and an admissible opcode makes the frame
non-zero. -/
theorem transactionHasOneNonZeroFrame : Obligations.TransactionHasOneNonZeroFrame := by
  refine ⟨fun n t op data ht hf => ⟨?_, fun p hp hpt => ?_, ?_, countP_frameVector ht hf⟩, frameVector_zero, ?_⟩
  · rw [frameVector_getElem? t _ ht, if_pos rfl]
  · rw [frameVector_getElem? t _ hp, if_neg hpt]
  · exact frameVector_length n t _
  · exact fun ops op data hops hop => mkFrame_ne_zero (op_ne_noop hops hop) data

/-! ## Steps on a wire frame -/

theorem State.shiftForeign_eq {s : State} (q : Nat) (f : WireFrame) (hn : 0 < s.par.devices) :
    s.shiftForeign q f = { s with pos := q, sr := (frameVector s.par.devices q f).flatMap frameBits } := by
  rw [State.shiftForeign, shift_vector _ _ _ _ hn]

/-- Settles O37: the move is consumed, the vector shifted in, and the decoded frame executed at its position. -/
theorem stepRunsWireFrame : Obligations.StepRunsWireFrame := by
  intro s q f rest i hn hq hs hi
  have hdec : decodeWire s.par.ops f = .ok i := hi
  rw [step_wire hs, foreignTransaction, if_pos hq, hdec]
  exact congrArg (exec i) (State.shiftForeign_eq q f hn)

end Sys2Proof.Machine

/-! # Proofs of the family 42_control_commands: DEVCNT and INIT -/

namespace Sys2Proof.Machine

/-- Settles O12: its one action is the response, and the opcode field alone selects it. -/
theorem devcntRespondsDeviceCount : Obligations.DevcntRespondsDeviceCount := by
  refine ⟨fun s => rfl, fun w hw => ?_⟩
  rw [decodeCommand, hw]
  rfl

/-! ## Blanking a device (rules R164, R181) -/

/-- The eight digit positions in ascending order, each with the blank pattern. -/
abbrev blankDigits : List (Nat × Byte) := (List.range 8).map fun i => (i, 0x00)

theorem mem_blankDigits {e : Nat × Byte} : e ∈ blankDigits ↔ e.1 < 8 ∧ e.2 = 0x00 := by
  simp only [List.mem_map, List.mem_range, Prod.ext_iff]
  exact ⟨fun ⟨i, hi, hie, hpat⟩ => ⟨hie ▸ hi, hpat.symm⟩, fun ⟨hi, hpat⟩ => ⟨e.1, hi, rfl, hpat.symm⟩⟩

theorem blankDigits_eq_append : blankDigits = (List.range 7).map (fun i => (i, 0x00)) ++ [(7, 0x00)] := rfl

/-- `t` is `s` after the eight digits of device `d` were blanked, in ascending order and each by a digit write of
rule R180. -/
structure Blanked (s t : State) (d : Nat) : Prop where
  frame  : onlyDisplay s t
  shadow : ∀ d' i', i' < 8 → t.shadowAt d' i' = if d' = d then 0x00 else s.shadowAt d' i'
  dev    : ∀ i < 8, t.devAt d (digitOp s.par.ops i) = 0x00
  devOut : ∀ q op, (q ≠ d ∨ ∀ i < 8, op ≠ digitOp s.par.ops i) → t.devAt q op = s.devAt q op
  events : t.trace = (digitEvents s.par d blankDigits).reverse ++ s.trace
  last   : lastTransaction s t d (digitOp s.par.ops 7) 0x00

theorem DigitsWritten.blanked {s t : State} {d : Nat} (h : DigitsWritten s t d blankDigits) : Blanked s t d where
  frame := h.frame
  shadow d' i' hi' := by
    split
    · next hd => subst hd; exact h.shadowIn (i', 0x00) (mem_blankDigits.mpr ⟨hi', rfl⟩)
    · next hd => exact h.shadowOut d' i' hi' (.inl hd)
  dev i hi := h.devIn (i, 0x00) (mem_blankDigits.mpr ⟨hi, rfl⟩)
  devOut q op ho := h.devOut q op (ho.imp_right fun hop _ he => hop _ (mem_blankDigits.mp he).1)
  events := h.events
  last := h.last ((List.range 7).map fun i => (i, 0x00)) (7, 0x00) blankDigits_eq_append

/-- The body of CLEAR as a run. -/
theorem runActions_blankDigits {s : State} {d : Nat} (hI : s.Inv) (hd : d < s.par.devices) :
    ∃ t, runActions (blankDigitsActions s.par d) s = .next t ∧ Blanked s t d := by
  obtain ⟨t, hrun, ht⟩ := runActions_digits blankDigits d s hI hd (fun _ he => (mem_blankDigits.mp he).1) (by decide)
  exact ⟨t, by rw [blankDigitsActions_eq, hrun], ht.blanked⟩

/-! ## INIT (rule R164) -/

theorem runActions_append_of_next {as bs : List Action} {s t : State} (h : runActions as s = .next t) :
    runActions (as ++ bs) s = runActions bs t := by
  rw [runActions_append, h]

theorem State.Inv.control {s : State} {d : Nat} {op : Byte} (data : Byte) (hI : s.Inv) (hd : d < s.par.devices)
    (hop : op ∈ controlOps s.par.ops) : (s.afterTransaction d op data).Inv :=
  hI.afterTransaction data hd (controlOps_ne_noop (opsWf_of_paramsWf hI.1) hop)

theorem displayTest_ne_decodeMode {ops : WireOps} (h : opsWf ops) : ops.displayTest ≠ ops.decodeMode := by
  obtain ⟨-, hnodup, -⟩ := h
  have hctl : (controlOps ops).Nodup := (List.nodup_append.mp hnodup).2.1
  intro he
  exact (List.nodup_cons.mp hctl).1 (by simp [he])

/-- The state after the two control transactions with which INIT begins. -/
def State.afterTestAndDecode (s : State) (d : Nat) : State :=
  (s.afterTransaction d s.par.ops.displayTest s.par.dataTestOff).afterTransaction d s.par.ops.decodeMode
    s.par.dataNoDecode

theorem State.devAt_afterTestAndDecode (s : State) (d q : Nat) (op : Byte) :
    (s.afterTestAndDecode d).devAt q op =
      if q = d ∧ op = s.par.ops.decodeMode then s.par.dataNoDecode
      else if q = d ∧ op = s.par.ops.displayTest then s.par.dataTestOff else s.devAt q op := by
  rw [State.afterTestAndDecode, State.devAt_afterTransaction, State.devAt_afterTransaction]

theorem State.trace_afterTestAndDecode (s : State) (d : Nat) :
    (s.afterTestAndDecode d).trace =
      (transactionEvents s.par.devices d s.par.ops.displayTest s.par.dataTestOff ++
        transactionEvents s.par.devices d s.par.ops.decodeMode s.par.dataNoDecode).reverse ++ s.trace := by
  simp [State.afterTestAndDecode, State.afterTransaction]

/-- INIT in range is its two control transactions and then the blanking of its device. -/
theorem exec_init {s : State} {d : Nat} (hI : s.Inv) (hd : d < s.par.devices) :
    ∃ t, exec (.init d) s = .next t ∧ Blanked (s.afterTestAndDecode d) t d := by
  have hI1 := hI.control s.par.dataTestOff hd (op := s.par.ops.displayTest) (by simp)
  have hI2 : (s.afterTestAndDecode d).Inv := hI1.control s.par.dataNoDecode hd (by simp [State.afterTransaction])
  obtain ⟨t, hrun, ht⟩ := runActions_blankDigits hI2 hd
  refine ⟨t, exec_of_actions (if_pos (devOk_iff.mpr hd)) ?_, ht⟩
  rw [List.append_assoc, runActions_append_of_next (runActions_control hI hd (by simp) _)]
  exact (runActions_append_of_next (runActions_control hI1 hd (by simp [State.afterTransaction]) _)).trans hrun

/-- Settles O14: the blanking writes neither control register, and the control transactions no digit. -/
theorem initPreparesDevice : Obligations.InitPreparesDevice := by
  intro s d hI hd
  have hops := opsWf_of_paramsWf hI.1
  have hcontrol : ∀ op ∈ controlOps s.par.ops, ∀ i < 8, op ≠ digitOp s.par.ops i :=
    fun op hop i hi => (digitOp_ne_control hops hi hop).symm
  obtain ⟨t, hexec, ht⟩ := exec_init hI hd
  have hframe : onlyDisplay s t := onlyDisplay.trans (t := s.afterTestAndDecode d) rfl ht.frame
  refine ⟨t, hexec, hframe, ht.shadow, ?_, ?_, ht.dev, fun q op ho => ?_, ?_, ht.last⟩
  · rw [ht.devOut d _ (.inr (hcontrol _ (by simp))), State.devAt_afterTestAndDecode]
    simp [displayTest_ne_decodeMode hops]
  · rw [ht.devOut d _ (.inr (hcontrol _ (by simp))), State.devAt_afterTestAndDecode]
    simp
  · have hdigit : q ≠ d ∨ ∀ i < 8, op ≠ digitOp s.par.ops i := ho.imp_right fun ⟨_, _, hop⟩ => hop
    rw [ht.devOut q op hdigit, State.devAt_afterTestAndDecode]
    rcases ho with hq | ⟨htest, hdecode, -⟩
    · simp [hq]
    · simp [htest, hdecode]
  · rw [ht.events, State.trace_afterTestAndDecode, ← List.append_assoc, ← List.reverse_append]
    rfl

end Sys2Proof.Machine

/-! # Proofs of the family 43_digit_commands: CLEAR and RDSHADOW -/

namespace Sys2Proof.Machine

/-- CLEAR in range is the blanking of its device (rule R181). -/
theorem exec_clear {s : State} {d : Nat} (hI : s.Inv) (hd : d < s.par.devices) :
    ∃ t, exec (.clear d) s = .next t ∧ Blanked s t d := by
  obtain ⟨t, hrun, ht⟩ := runActions_blankDigits hI hd
  exact ⟨t, exec_of_actions (if_pos (devOk_iff.mpr hd)) hrun, ht⟩

/-- Settles O17: CLEAR is a blanking, and what a blanking does is the claim. -/
theorem clearBlanksDevice : Obligations.ClearBlanksDevice := by
  intro s d hI hd
  obtain ⟨t, hexec, ht⟩ := exec_clear hI hd
  exact ⟨t, hexec, ht.frame, ht.shadow, ht.dev, ht.devOut, ht.events, ht.last⟩

/-- An instruction whose one action is a response completes with it. -/
theorem exec_of_respond {i : Instr} {s : State} {v : Byte} (hi : instrActions i s = [.respond v]) :
    exec i s = .next (s.respond v) :=
  exec_of_actions hi rfl

/-- RDSHADOW responds on either branch of its range check (rule R184). -/
theorem exec_rdshadow (s : State) (d pos : Nat) :
    exec (.rdshadow d pos) s =
      .next (s.respond (if d < s.par.devices ∧ pos ≤ 7 then s.shadowAt d pos else 0x00)) := by
  have hrange : (devOk s.par d && posOk pos) = true ↔ d < s.par.devices ∧ pos ≤ 7 := by simp
  split
  · next hin => exact exec_of_respond (if_pos (hrange.mpr hin))
  · next hout => exact exec_of_respond (if_neg fun h => hout (hrange.mp h))

/-- Settles O20: one response on either branch of the range check; and the opcode field alone selects the command. -/
theorem rdshadowAlwaysResponds : Obligations.RdshadowAlwaysResponds := by
  refine ⟨fun s d pos => ⟨fun hd hp => ?_, fun hout => ?_⟩, fun w hw => ?_⟩
  · rw [exec_rdshadow, if_pos ⟨hd, hp⟩]
    rfl
  · have hrange : ¬ (d < s.par.devices ∧ pos ≤ 7) := by omega
    rw [exec_rdshadow, if_neg hrange]
    rfl
  · rw [decodeCommand, hw]
    rfl

end Sys2Proof.Machine

/-! # Proofs of the family 44_refresh_scroll: the text buffer, FRAME, and RENDER with its waits -/

namespace Sys2Proof.Machine

/-! ## The text buffer (rules R200, R201) -/

theorem State.textAt_setText (s : State) (k j : Nat) (sl : Slot) :
    (s.setText k sl).textAt j = if j = k then some sl else s.textAt j :=
  Mem.read_write s.tbuf k j sl

/-- Settles O22: one write of the text memory, read back at every slot. -/
theorem txtwrStoresOneSlot : Obligations.TxtwrStoresOneSlot := by
  intro s idx ch dp hidx
  have hexec : exec (.txtwr idx ch dp) s = .next (s.setText idx { ch := ch, dp := dp }) :=
    exec_of_actions (if_pos (idxOk_iff.mpr hidx)) rfl
  exact ⟨_, hexec, rfl, fun k => s.textAt_setText idx k _, Mem.write_wf _ _ _⟩

/-- Settles O23: a length below an admissible capacity fits the byte that holds it. -/
theorem txtlenSetsLength : Obligations.TxtlenSetsLength := by
  intro s len hI hlen
  have hexec : exec (.txtlen len) s = .next (s.setLen (BitVec.ofNat 8 len)) :=
    exec_of_actions (if_pos (lenOk_iff.mpr hlen)) rfl
  obtain ⟨⟨-, ⟨-, hcap⟩, -⟩, -⟩ := hI
  have hbyte : len < 2 ^ 8 := by omega
  exact ⟨_, hexec, rfl, by rw [State.setLen_tlen, BitVec.toNat_ofNat, Nat.mod_eq_of_lt hbyte]⟩

/-! ## One frame (rules R203 to R205) -/

theorem State.frameDigits_eq_append (s : State) (o : Nat) :
    s.frameDigits o =
      (List.range 7).map (fun j => (windowPos s.par j, s.shownAt o j)) ++ [(windowPos s.par 7, s.shownAt o 7)] := rfl

theorem frameDigits_lt {s : State} (hpar : paramsWf s.par) {o : Nat} : ∀ e ∈ s.frameDigits o, e.1 < 8 := by
  intro e he
  obtain ⟨j, hj, rfl⟩ := mem_frameDigits.mp he
  exact windowPos_lt hpar hj

/-- The digit writes of a frame, slot by slot. -/
theorem DigitsWritten.frameShown {s t : State} {d o : Nat} (hpar : paramsWf s.par)
    (h : DigitsWritten s t d (s.frameDigits o)) : frameShown s t d o := by
  have hslot : ∀ j < 8, (windowPos s.par j, s.shownAt o j) ∈ s.frameDigits o :=
    fun j hj => mem_frameDigits.mpr ⟨j, hj, rfl⟩
  have hlast := h.last _ _ (s.frameDigits_eq_append o)
  exact ⟨h.frame, fun j hj => h.shadowIn _ (hslot j hj), fun d' i' hd' hi' => h.shadowOut d' i' hi' (.inl hd'),
    fun j hj => h.devIn _ (hslot j hj),
    fun q op ho => h.devOut q op (ho.imp_right fun hop e he => hop _ (frameDigits_lt hpar e he)), h.events, hlast⟩

/-- A refresh of a loaded window as a run. -/
theorem runActions_refresh {s : State} {d o : Nat} (hI : s.Inv) (hd : d < s.par.devices) (hload : s.windowLoaded o) :
    ∃ t, runActions (refreshActions s d o) s = .next t ∧ frameShown s t d o := by
  obtain ⟨t, hrun, ht⟩ :=
    runActions_digits (s.frameDigits o) d s hI hd (frameDigits_lt hI.1) (frameDigits_nodup hI.1 o)
  exact ⟨t, by rw [refreshActions_eq s d o hload, hrun], ht.frameShown hI.1⟩

/-- Settles O24: in range FRAME is one refresh. -/
theorem frameShowsWindow : Obligations.FrameShowsWindow := by
  intro s d off hI hd hload
  obtain ⟨t, hrun, ht⟩ := runActions_refresh hI hd hload
  exact ⟨t, exec_of_actions (if_pos (devOk_iff.mpr hd)) hrun, ht⟩

/-! ## RENDER up to its first wait (rules R206, R207, R209, R210) -/

/-- The duration of every wait of a RENDER: `FRAME_MS` of a scroll, the whole duration of a static frame. -/
def renderWait (p : Params) (dur : Duration) (len : Nat) : Duration :=
  if len ≤ 8 then dur else frameDuration p dur len (renderFrames p len)

/-- A scroll has a frame after its first. -/
theorem one_lt_frameCount {p : Params} {len : Nat} (h : 8 < len) : 1 < frameCount p len := by
  unfold frameCount
  omega

/-- In range RENDER shows the frame at offset 0 and asks for a wait, whatever the length of the text. -/
theorem actsRender_eq {s : State} {d : Nat} (hd : d < s.par.devices) (dur : Duration) :
    actsRender d dur s = refreshActions s d 0 ++
      [.request (renderWait s.par dur s.tlen.toNat)
        { d := d, k := 1, frames := renderFrames s.par s.tlen.toNat, ms := renderWait s.par dur s.tlen.toNat }] := by
  simp only [actsRender, devOk_iff.mpr hd, if_true, renderWait, renderFrames]
  by_cases hlen : s.tlen.toNat ≤ 8
  · simp only [hlen, if_true]
  · have hmore : 0 < frameCount s.par s.tlen.toNat - 1 := Nat.sub_pos_of_lt (one_lt_frameCount (Nat.lt_of_not_le hlen))
    simp only [hlen, if_false, scrollFrameActions, hmore, true_or, if_true]

theorem exec_render {s : State} {d : Nat} (dur : Duration) (hI : s.Inv) (hd : d < s.par.devices)
    (hload : s.windowLoaded 0) :
    ∃ t, frameShown s t d 0 ∧
      exec (.render d dur) s = .next (t.requestWait (renderWait s.par dur s.tlen.toNat)
        { d := d, k := 1, frames := renderFrames s.par s.tlen.toNat, ms := renderWait s.par dur s.tlen.toNat }) := by
  obtain ⟨t, hrun, ht⟩ := runActions_refresh hI hd hload
  exact ⟨t, ht, exec_of_actions (actsRender_eq hd dur) (runActions_append_of_next hrun)⟩

/-- Settles O25: a text that fits has one frame, and its wait is the whole duration. -/
theorem renderShowsShortTextOnce : Obligations.RenderShowsShortTextOnce := by
  intro s d dur hI hd hload hlen
  obtain ⟨t, ht, hexec⟩ := exec_render dur hI hd hload
  refine ⟨t, ht, ?_⟩
  rw [hexec, renderWait, if_pos hlen, renderFrames, if_pos hlen]
  rfl

/-- Settles O26: a longer text has the frames and the waits of a scroll. -/
theorem renderStartsScroll : Obligations.RenderStartsScroll := by
  intro s d dur hI hd hload hlen
  obtain ⟨t, ht, hexec⟩ := exec_render dur hI hd hload
  refine ⟨t, ht, ?_⟩
  have hlong := Nat.not_le_of_lt hlen
  rw [hexec, renderWait, if_neg hlong, renderFrames, if_neg hlong]
  rfl

/-! ## A read of an unwritten slot (rule R214) -/

theorem runActions_append_of_refused {as bs : List Action} {s : State} {r : Refusal}
    (h : runActions as s = .refused r) : runActions (as ++ bs) s = .refused r := by
  rw [runActions_append, h]

/-- A slot that reads a loaded text slot, or none, stops nothing. -/
theorem slotActions_stops {s : State} {d o j : Nat} (h : o + j < s.tlen.toNat → (s.textAt (o + j)).isSome = true) :
    ∀ a ∈ slotActions s d o j, a.stops = none := by
  simp only [slotActions, window_eq_some s o j h]
  exact writeDigitActions_stops _ _ _ _

theorem slotActions_unwritten {s : State} {o j : Nat} (d : Nat) (hlt : o + j < s.tlen.toNat)
    (hnone : s.textAt (o + j) = none) : slotActions s d o j = [.readUnwritten (o + j)] := by
  simp only [slotActions, window, hlt, if_true, hnone, Option.map_none]

/-- A refresh runs the slots before the first unwritten one, and stops there. -/
theorem runActions_refresh_unwritten {s : State} {o j : Nat} (d : Nat) (hj : j < 8) (hlt : o + j < s.tlen.toNat)
    (hnone : s.textAt (o + j) = none) (hfirst : ∀ k < j, (s.textAt (o + k)).isSome = true) :
    runActions (refreshActions s d o) s = .refused (.unwrittenTextSlot (o + j)) := by
  have hslots : List.range 8 = List.range j ++ j :: (List.range (7 - j)).map (j + 1 + ·) := by
    rw [← List.singleton_append, ← List.append_assoc, ← List.range_succ, ← List.range_add]
    congr 1
    omega
  have hbefore : ∀ a ∈ (List.range j).flatMap (slotActions s d o), a.stops = none := by
    intro a ha
    obtain ⟨k, hk, ha⟩ := List.mem_flatMap.mp ha
    exact slotActions_stops (fun _ => hfirst k (List.mem_range.mp hk)) a ha
  rw [refreshActions, hslots, List.flatMap_append, List.flatMap_cons, slotActions_unwritten d hlt hnone,
    runActions_append_of_next (runActions_eq_foldl _ _ hbefore)]
  rfl

/-- Settles O29: FRAME is a refresh, and RENDER begins with one. -/
theorem unwrittenSlotIsRefused : Obligations.UnwrittenSlotIsRefused := by
  intro s d off j dur hd hj hlt hnone hfirst
  have hrefresh := runActions_refresh_unwritten d hj hlt hnone hfirst
  refine ⟨?_, ?_⟩
  · exact (congrArg (runActions · s) (if_pos (devOk_iff.mpr hd))).trans hrefresh
  · rintro rfl
    rw [Nat.zero_add] at hrefresh
    exact (congrArg (runActions · s) (actsRender_eq hd dur)).trans (runActions_append_of_refused hrefresh)

/-! ## A held block (rules R208, R273, R300, R301) -/

theorem step_ack {s : State} {rest : List HostMove} (h : s.host = .ack :: rest) :
    step s = acknowledge { s with host := rest } := by
  simp only [step, hostStep, h]

theorem step_ack_of_idle {s : State} {rest : List HostMove} (hs : s.seq = .idle) (h : s.host = .ack :: rest) :
    step s = .next { s with host := rest } := by
  simp only [step_ack h, acknowledge, hs]

/-- Settles O38: the move's own case of the step, at a block that is held, or idle. -/
theorem heldBlockWaitsForHost : Obligations.HeldBlockWaitsForHost := by
  intro s
  refine ⟨fun h => ?_, fun job w n rest hs h => ?_, fun rest => step_ack_of_idle⟩
  · simp only [step, hostStep, h]
  · have hbusy : s.ready = false := by simp [State.ready, hs]
    rcases h with h | h <;> simp [step, hostStep, h, hbusy]

/-! ## RENDER after an acknowledgement (rules R206, R208) -/

/-- The state an acknowledgement leaves a RENDER to go on in: the move consumed, the request withdrawn. -/
abbrev State.acknowledged (s : State) (rest : List HostMove) : State :=
  { s with host := rest, waitReq := false, seq := .idle }

/-- An acknowledged RENDER shows its next frame, if it has one. -/
theorem step_ack_of_waiting {s : State} {job : ScrollJob} {rest : List HostMove} (hs : s.seq = .waiting job)
    (h : s.host = .ack :: rest) :
    step s = runActions (if job.k < job.frames then scrollFrameActions (s.acknowledged rest) job else [])
      (s.acknowledged rest) := by
  simp only [step_ack h, acknowledge, hs]
  rfl

/-- A frame of a scroll as a run: the frame, then its wait unless it is the last and `SUSPEND_AFTER_LAST` is false. -/
theorem runActions_scrollFrame {s : State} {job : ScrollJob} (hI : s.Inv) (hd : job.d < s.par.devices)
    (hload : s.windowLoaded job.k) :
    ∃ t, frameShown s t job.d job.k ∧
      runActions (scrollFrameActions s job) s =
        .next (if job.k + 1 < job.frames ∨ s.par.suspendAfterLast = true then
          t.requestWait job.ms { job with k := job.k + 1 } else t) := by
  obtain ⟨t, hrun, ht⟩ := runActions_refresh hI hd hload
  have hwait : (job.k + 1 < job.frames ∨ s.par.suspendAfterLast = true) ↔
      (job.k < job.frames - 1 ∨ s.par.suspendAfterLast = true) := or_congr_left (by omega)
  refine ⟨t, ht, ?_⟩
  rw [scrollFrameActions, runActions_append_of_next hrun, if_congr hwait rfl rfl]
  split <;> rfl

/-- Settles O27: the withdrawn request leaves the invariant in place, and what follows is a frame of the scroll. -/
theorem acknowledgeContinuesRender : Obligations.AcknowledgeContinuesRender := by
  intro s job rest hI hs hhost
  obtain ⟨hd, -⟩ := hI.fits hs
  have hstep := step_ack_of_waiting hs hhost
  refine ⟨fun hk => ?_, fun hk hload => ?_⟩
  · rw [hstep, if_neg (Nat.not_lt_of_ge hk.ge)]
    rfl
  · have hI' : (s.acknowledged rest).Inv := (hI.consume rest).releaseWait
    obtain ⟨t, ht, hrun⟩ := runActions_scrollFrame hI' hd hload
    refine ⟨t, ht, ?_⟩
    rw [hstep, if_pos hk, hrun]
    rfl

/-! ## Transactions and wait requests in a trace -/

@[simp] theorem transactions_append (es fs : List Event) :
    transactions (es ++ fs) = transactions es + transactions fs := List.countP_append

@[simp] theorem transactions_reverse (es : List Event) : transactions es.reverse = transactions es :=
  List.countP_reverse

@[simp] theorem waitRequests_append (es fs : List Event) :
    waitRequests (es ++ fs) = waitRequests es + waitRequests fs := List.countP_append

@[simp] theorem waitRequests_reverse (es : List Event) : waitRequests es.reverse = waitRequests es :=
  List.countP_reverse

@[simp] theorem transactions_transactionEvents (n t : Nat) (op data : Byte) :
    transactions (transactionEvents n t op data) = 1 := by
  simp [transactionEvents, transactions, Function.comp_def]

@[simp] theorem waitRequests_transactionEvents (n t : Nat) (op data : Byte) :
    waitRequests (transactionEvents n t op data) = 0 := by
  simp [transactionEvents, waitRequests]

@[simp] theorem transactions_digitEvents (p : Params) (d : Nat) (pats : List (Nat × Byte)) :
    transactions (digitEvents p d pats) = pats.length := by
  induction pats with
  | nil => rfl
  | cons e rest ih => simpa [digitEvents, Nat.add_comm] using ih

@[simp] theorem waitRequests_digitEvents (p : Params) (d : Nat) (pats : List (Nat × Byte)) :
    waitRequests (digitEvents p d pats) = 0 := by
  induction pats with
  | nil => rfl
  | cons e rest ih => simpa [digitEvents] using ih

/-- Frame `k` of a RENDER of `frames` frames is followed by a wait (rules R206, R210). -/
abbrev State.waitsAfter (s : State) (frames k : Nat) : Prop :=
  k + 1 < frames ∨ s.tlen.toNat ≤ 8 ∨ s.par.suspendAfterLast = true

theorem renderFrames_ne_zero (p : Params) (len : Nat) : renderFrames p len ≠ 0 := by
  unfold renderFrames
  split
  · exact Nat.one_ne_zero
  · next hlong => exact Nat.ne_zero_of_lt (one_lt_frameCount (Nat.lt_of_not_le hlong))

/-- Frame 0 of a RENDER has its wait, whatever the text. -/
theorem State.waitsAfter_zero (s : State) : s.waitsAfter (renderFrames s.par s.tlen.toNat) 0 := by
  unfold renderFrames
  split
  · next hshort => exact .inr (.inl hshort)
  · next hlong => exact .inl (one_lt_frameCount (Nat.lt_of_not_le hlong))

theorem transactions_renderFrameEvents (s : State) (d frames : Nat) (ms : Duration) (k : Nat) :
    transactions (s.renderFrameEvents d frames ms k) = 8 := by
  have hwait : transactions [.waitReq ms] = transactions [] := rfl
  rw [State.renderFrameEvents, transactions_append, apply_ite transactions, hwait, ite_self, transactions_digitEvents]
  simp [State.frameDigits, transactions]

theorem waitRequests_renderFrameEvents (s : State) (d frames : Nat) (ms : Duration) (k : Nat) :
    waitRequests (s.renderFrameEvents d frames ms k) = if s.waitsAfter frames k then 1 else 0 := by
  rw [State.renderFrameEvents, waitRequests_append, waitRequests_digitEvents, Nat.zero_add, apply_ite waitRequests]
  rfl

/-- The events of the first `n` frames of a RENDER. -/
abbrev State.renderEvents (s : State) (d frames : Nat) (ms : Duration) (n : Nat) : List Event :=
  (List.range n).flatMap (s.renderFrameEvents d frames ms)

theorem State.renderEvents_succ (s : State) (d frames : Nat) (ms : Duration) (n : Nat) :
    s.renderEvents d frames ms (n + 1) = s.renderEvents d frames ms n ++ s.renderFrameEvents d frames ms n := by
  simp [State.renderEvents, List.range_succ]

theorem transactions_renderEvents (s : State) (d frames : Nat) (ms : Duration) (n : Nat) :
    transactions (s.renderEvents d frames ms n) = 8 * n := by
  induction n with
  | zero => rfl
  | succ n ih => rw [State.renderEvents_succ, transactions_append, ih, transactions_renderFrameEvents, Nat.mul_succ]

/-- Every frame before the last has its wait. -/
theorem waitRequests_renderEvents {s : State} {frames n : Nat} (d : Nat) (ms : Duration) (h : n < frames) :
    waitRequests (s.renderEvents d frames ms n) = n := by
  induction n with
  | zero => rfl
  | succ n ih =>
    rw [State.renderEvents_succ, waitRequests_append, ih (Nat.lt_of_succ_lt h), waitRequests_renderFrameEvents,
      if_pos (.inl h)]

/-! ## The frames of an acknowledged RENDER (rules R206, R216, R301) -/

/-- `t` is `s` after frames 0 to `k` of a RENDER of `frames` frames, each followed by its wait, every wait before the last
of them acknowledged. -/
structure FramesShown (s t : State) (d frames : Nat) (ms : Duration) (k : Nat) : Prop where
  inv    : t.Inv
  par    : t.par = s.par
  tlen   : t.tlen = s.tlen
  tbuf   : t.tbuf = s.tbuf
  seq    : t.seq = if s.waitsAfter frames k then .waiting { d := d, k := k + 1, frames := frames, ms := ms } else .idle
  events : t.trace = (s.renderEvents d frames ms (k + 1)).reverse ++ s.trace
  shadow : ∀ j < 8, t.shadowAt d (windowPos s.par j) = s.shownAt k j
  dev    : ∀ j < 8, t.devAt d (digitOp s.par.ops (windowPos s.par j)) = s.shownAt k j

/-- What is shown depends on the text and the parameters alone. -/
theorem State.shownAt_congr {s t : State} (hpar : t.par = s.par) (hlen : t.tlen = s.tlen) (hbuf : t.tbuf = s.tbuf)
    (o j : Nat) : t.shownAt o j = s.shownAt o j := by
  simp only [State.shownAt, State.textAt, hpar, hlen, hbuf]

theorem State.frameDigits_congr {s t : State} (hpar : t.par = s.par) (hlen : t.tlen = s.tlen) (hbuf : t.tbuf = s.tbuf)
    (o : Nat) : t.frameDigits o = s.frameDigits o := by
  simp only [State.frameDigits, hpar, State.shownAt_congr hpar hlen hbuf]

theorem State.windowLoaded_of_textLoaded {s : State} (h : s.TextLoaded) (o : Nat) : s.windowLoaded o :=
  fun j _ hlt => h (o + j) hlt

theorem State.TextLoaded.congr {s t : State} (h : s.TextLoaded) (hlen : t.tlen = s.tlen) (hbuf : t.tbuf = s.tbuf) :
    t.TextLoaded := by
  simpa only [State.TextLoaded, State.textAt, hlen, hbuf] using h

/-- The block after frame `k`: with its wait asked for, if there is one. -/
def State.suspend (t : State) (d frames : Nat) (ms : Duration) (k : Nat) : State :=
  if t.waitsAfter frames k then t.requestWait ms { d := d, k := k + 1, frames := frames, ms := ms } else t

section
variable (t : State) (d frames : Nat) (ms : Duration) (k : Nat)

@[simp] theorem State.suspend_par : (t.suspend d frames ms k).par = t.par := by
  unfold State.suspend; split <;> rfl

@[simp] theorem State.suspend_tlen : (t.suspend d frames ms k).tlen = t.tlen := by
  unfold State.suspend; split <;> rfl

@[simp] theorem State.suspend_tbuf : (t.suspend d frames ms k).tbuf = t.tbuf := by
  unfold State.suspend; split <;> rfl

@[simp] theorem State.suspend_host : (t.suspend d frames ms k).host = t.host := by
  unfold State.suspend; split <;> rfl

@[simp] theorem State.suspend_shadowAt (d' i : Nat) : (t.suspend d frames ms k).shadowAt d' i = t.shadowAt d' i := by
  unfold State.suspend; split <;> rfl

@[simp] theorem State.suspend_devAt (q : Nat) (op : Byte) : (t.suspend d frames ms k).devAt q op = t.devAt q op := by
  unfold State.suspend; split <;> rfl

theorem State.suspend_seq : (t.suspend d frames ms k).seq =
    if t.waitsAfter frames k then .waiting { d := d, k := k + 1, frames := frames, ms := ms } else t.seq := by
  unfold State.suspend; split <;> rfl

theorem State.suspend_trace : (t.suspend d frames ms k).trace =
    (if t.waitsAfter frames k then [.waitReq ms] else []).reverse ++ t.trace := by
  unfold State.suspend; split <;> rfl

end

/-- A frame writes neither the text nor what holds the block. -/
theorem frameShown.kept {s t : State} {d o : Nat} (h : frameShown s t d o) :
    t.par = s.par ∧ t.tlen = s.tlen ∧ t.tbuf = s.tbuf ∧ t.seq = s.seq ∧ t.host = s.host := by
  obtain ⟨honly, -⟩ := h
  unfold onlyDisplay at honly
  rw [honly]
  exact ⟨rfl, rfl, rfl, rfl, rfl⟩

/-- One frame more, and its wait: from a block `b` at which the frames before it were shown and their waits
acknowledged. -/
theorem FramesShown.of_frameShown {s b t : State} {d frames k : Nat} {ms : Duration} (hpar : b.par = s.par)
    (hlen : b.tlen = s.tlen) (hbuf : b.tbuf = s.tbuf) (hseq : b.seq = .idle)
    (hevents : b.trace = (s.renderEvents d frames ms k).reverse ++ s.trace) (ht : frameShown b t d k)
    (hI : (t.suspend d frames ms k).Inv) : FramesShown s (t.suspend d frames ms k) d frames ms k := by
  obtain ⟨hpar', hlen', hbuf', hseq', -⟩ := ht.kept
  obtain ⟨-, hshadow, -, hdev, -, htrace, -⟩ := ht
  rw [hpar] at hpar'
  rw [hlen] at hlen'
  rw [hbuf] at hbuf'
  rw [hseq] at hseq'
  have hframe : s.renderEvents d frames ms (k + 1) = s.renderEvents d frames ms k ++
      (digitEvents s.par d (s.frameDigits k) ++ if s.waitsAfter frames k then [.waitReq ms] else []) :=
    s.renderEvents_succ d frames ms k
  simp only [hpar, State.shownAt_congr hpar hlen hbuf] at hshadow hdev
  rw [hevents, hpar, State.frameDigits_congr hpar hlen hbuf] at htrace
  refine ⟨hI, by simpa, by simpa, by simpa, ?_, ?_, by simpa using hshadow, by simpa using hdev⟩
  · simp only [State.suspend_seq, State.waitsAfter, hlen', hpar', hseq']
  · simp only [State.suspend_trace, State.waitsAfter, hlen', hpar', htrace, hframe, List.reverse_append,
      List.append_assoc]

/-- RENDER leaves its first frame shown and its first wait asked for. -/
theorem FramesShown.start {s : State} {d : Nat} {dur : Duration} {w : CommandWord} {moves : List HostMove} (hI : s.Inv)
    (hs : s.seq = .idle) (hload : s.TextLoaded) (hd : d < s.par.devices) (hw : decodeCommand w = .render d dur)
    (hhost : s.host = .command w :: moves) :
    ∃ t, step s = .next t ∧ t.host = moves ∧
      FramesShown s t d (renderFrames s.par s.tlen.toNat) (renderWait s.par dur s.tlen.toNat) 0 := by
  obtain ⟨t, ht, hexec⟩ := exec_render dur (hI.consume moves) hd (State.windowLoaded_of_textLoaded hload 0)
  obtain ⟨hpar, hlen, -, -, hmoves⟩ := ht.kept
  have hwait : t.waitsAfter (renderFrames s.par s.tlen.toNat) 0 := by
    rw [State.waitsAfter, hpar, hlen]
    exact s.waitsAfter_zero
  have hcommand := (stepRunsPresentedCommand s w moves hhost).1 hs s.par.ops _ (congrArg Except.ok hw)
  have hstep : step s =
      .next (t.suspend d (renderFrames s.par s.tlen.toNat) (renderWait s.par dur s.tlen.toNat) 0) := by
    rw [hcommand, hexec, State.suspend, if_pos hwait]
  have hshown := FramesShown.of_frameShown (s := s) (b := { s with host := moves }) rfl rfl rfl hs rfl ht
    (stepKeepsInvariant _ _ hI hstep)
  exact ⟨_, hstep, (State.suspend_host ..).trans hmoves, hshown⟩

section
variable {s t : State} {d frames k : Nat} {ms : Duration} {rest : List HostMove}

/-- Before the last frame the block is held. -/
theorem FramesShown.seq_of_lt (h : FramesShown s t d frames ms k) (hk : k + 1 < frames) :
    t.seq = .waiting { d := d, k := k + 1, frames := frames, ms := ms } := by
  rw [h.seq, if_pos (.inl hk)]

/-- A text with a frame after its first is no short one. -/
theorem FramesShown.long (h : FramesShown s t d frames ms k) (hk : k + 1 < frames) : ¬ s.tlen.toNat ≤ 8 := by
  obtain ⟨-, -, -, hframes⟩ := h.inv.fits (h.seq_of_lt hk)
  rw [h.par, h.tlen, renderFrames] at hframes
  intro hshort
  rw [if_pos hshort] at hframes
  have hone : frames = 1 := hframes
  omega

/-- An acknowledgement before the last frame leads to the next one. -/
theorem FramesShown.next (h : FramesShown s t d frames ms k) (hload : s.TextLoaded) (hk : k + 1 < frames)
    (hhost : t.host = .ack :: rest) :
    ∃ u, step t = .next u ∧ u.host = rest ∧ FramesShown s u d frames ms (k + 1) := by
  have hwindow := State.windowLoaded_of_textLoaded (hload.congr h.tlen h.tbuf) (k + 1)
  obtain ⟨u, hu, hstep⟩ := (acknowledgeContinuesRender t _ rest h.inv (h.seq_of_lt hk) hhost).2 hk hwindow
  obtain ⟨hpar, hlen, -, -, hmoves⟩ := hu.kept
  have hwait : u.waitsAfter frames (k + 1) ↔ k + 1 + 1 < frames ∨ t.par.suspendAfterLast = true := by
    rw [State.waitsAfter, hpar, hlen, h.tlen]
    simp only [h.long hk, false_or]
  have hstep' : step t = .next (u.suspend d frames ms (k + 1)) := by
    rw [hstep, State.suspend, if_congr hwait rfl rfl]
    rfl
  have hshown := FramesShown.of_frameShown (b := t.acknowledged rest) h.par h.tlen h.tbuf rfl h.events hu
    (stepKeepsInvariant _ _ h.inv hstep')
  exact ⟨_, hstep', (State.suspend_host ..).trans hmoves, hshown⟩

/-- An idle block has no request to withdraw. -/
theorem State.acknowledged_of_idle (hI : t.Inv) (hs : t.seq = .idle) :
    { t with host := rest } = t.acknowledged rest := by
  obtain ⟨-, -, -, -, hwait, -⟩ := hI
  have hreq : t.waitReq = false := by simpa [State.waitOk, hs] using hwait
  cases t
  cases hs
  cases hreq
  rfl

/-- After the last frame an acknowledgement leaves the block ready, whether or not it had a wait to end. -/
theorem FramesShown.finish (h : FramesShown s t d (k + 1) ms k) (hhost : t.host = .ack :: rest) :
    step t = .next (t.acknowledged rest) := by
  have hseq := h.seq
  split at hseq
  · exact (acknowledgeContinuesRender t _ rest h.inv hseq hhost).1 rfl
  · rw [step_ack_of_idle hseq hhost, State.acknowledged_of_idle h.inv hseq]

end

/-- As many acknowledgements as frames are left to show, and one more, lead through the last frame to a ready block. -/
theorem FramesShown.run {s : State} {d last : Nat} {ms : Duration} {rest : List HostMove} (hload : s.TextLoaded)
    (n : Nat) {t : State} {k : Nat} (h : FramesShown s t d (last + 1) ms k) (hk : k + n = last)
    (hhost : t.host = List.replicate (n + 1) .ack ++ rest) :
    ∃ u, Host.Core.run core (n + 1) t = .next (u.acknowledged rest) ∧ FramesShown s u d (last + 1) ms last := by
  induction n generalizing t k with
  | zero =>
    obtain rfl : k = last := hk
    exact ⟨t, (core_run_succ (h.finish hhost)).trans (core_run_zero _), h⟩
  | succ n ih =>
    obtain ⟨u, hstep, hu, hshown⟩ := h.next hload (by omega) hhost
    obtain ⟨v, hrun, hv⟩ := ih hshown (by omega) hu
    exact ⟨v, (core_run_succ hstep).trans hrun, hv⟩

/-- Settles O28: RENDER shows frame 0, each acknowledgement the next one, and the last acknowledgement ends it. -/
theorem acknowledgedRenderShowsEveryFrame : Obligations.AcknowledgedRenderShowsEveryFrame := by
  intro s d dur w rest hI hs hload hd hw frames ms hhost
  obtain ⟨last, hlast⟩ : ∃ last, frames = last + 1 := Nat.exists_eq_succ_of_ne_zero (renderFrames_ne_zero _ _)
  obtain ⟨t, hstep, hmoves, hfirst⟩ : ∃ t, step s = .next t ∧ t.host = List.replicate frames .ack ++ rest ∧
      FramesShown s t d frames ms 0 := FramesShown.start hI hs hload hd hw hhost
  have hwaits : s.waitsAfter frames last ↔ s.tlen.toNat ≤ 8 ∨ s.par.suspendAfterLast = true := by
    simp only [State.waitsAfter, hlast, Nat.lt_irrefl, false_or]
  clear_value frames ms
  subst hlast
  obtain ⟨u, hrun, hu⟩ := hfirst.run hload last (Nat.zero_add last) hmoves
  refine ⟨u.acknowledged rest, (core_run_succ hstep).trans hrun, rfl, rfl, rfl, hu.tbuf, hu.tlen, hu.events, ?_, ?_,
    hu.shadow, hu.dev⟩
  · rw [hu.events, transactions_append, transactions_reverse, transactions_renderEvents, Nat.add_comm]
  · rw [hu.events, waitRequests_append, waitRequests_reverse, State.renderEvents_succ, waitRequests_append,
      waitRequests_renderEvents d ms (Nat.lt_succ_self last), waitRequests_renderFrameEvents, if_congr hwaits rfl rfl,
      Nat.add_comm]
    split <;> rfl

end Sys2Proof.Machine

/-! # Proofs of the family 45_normalizer: what the normalizer emits, its bound and its fixed points -/

namespace Sys2Proof.Machine

/-! ## What one input position does (rules R232 to R240) -/

/-- The character codes the normalizer does not copy: `W w M m ?` (rules R232 to R234). -/
abbrev rawCodes : List Byte := [0x57, 0x77, 0x4D, 0x6D, 0x3F]

/-- `Put` emits where the output has room beside the terminator (rule R238). -/
theorem putSlot_eq (cap : Nat) (out : List Slot) (c : Byte) :
    putSlot cap out c = if out.length < cap - 1 then some (out ++ [{ ch := c, dp := false }]) else none := by
  simp only [putSlot, ← not_lt, ite_not]

theorem putSlot_eq_some_iff {cap : Nat} {out o : List Slot} {c : Byte} :
    putSlot cap out c = some o ↔ out.length < cap - 1 ∧ out ++ [{ ch := c, dp := false }] = o := by
  rw [putSlot_eq, Option.ite_none_right_eq_some, Option.some_inj]

/-- `MarkLast` changes no character and no length (rule R231). -/
@[simp] theorem markLast_map_ch (out : List Slot) : (markLast out).map (·.ch) = out.map (·.ch) := by
  induction out using markLast.induct with
  | case1 => rfl
  | case2 => rfl
  | case3 x y rest ih => rw [markLast, List.map_cons, ih, ← List.map_cons]

@[simp] theorem length_markLast (out : List Slot) : (markLast out).length = out.length := by
  rw [← List.length_map, markLast_map_ch, List.length_map]

theorem not_raw_iff {c : Byte} :
    c ∉ rawCodes ↔ ¬(c = 0x57 ∨ c = 0x77) ∧ ¬(c = 0x4D ∨ c = 0x6D) ∧ c ≠ 0x3F := by
  simp [rawCodes, not_or, and_assoc]

/-- A flagged position that is none of `W w M m ?` emits nothing (rule R235). -/
theorem normStep_of_flagged {x : Slot} (hx : x.ch ∉ rawCodes) (hdp : x.dp = true) (h : HalfGlyphs) (cap : Nat)
    (out : List Slot) : normStep h cap out x = (markLast out, true) := by
  obtain ⟨hW, hM, hQ⟩ := not_raw_iff.mp hx
  simp only [normStep, if_neg hW, if_neg hM, if_neg hQ, if_pos hdp]

/-- An unflagged position that is none of `W w M m ?` is copied where there is room (rules R236, R238). -/
theorem normStep_of_unflagged {x : Slot} (hx : x.ch ∉ rawCodes) (hdp : x.dp = false) (h : HalfGlyphs) (cap : Nat)
    (out : List Slot) :
    normStep h cap out x = if out.length < cap - 1 then (out ++ [x], true) else (out, false) := by
  obtain ⟨hW, hM, hQ⟩ := not_raw_iff.mp hx
  obtain ⟨c, _⟩ := x
  subst hdp
  simp only [normStep, putSlot_eq, if_neg hW, if_neg hM, if_neg hQ, Bool.false_eq_true, if_false]
  by_cases hroom : out.length < cap - 1
  · rw [if_pos hroom, if_pos hroom]
  · rw [if_neg hroom, if_neg hroom]

/-! ## Every output is built by Put and MarkLast (rule R231) -/

/-- The outputs that Put and MarkLast lead to, where Put emits half-glyph codes and codes that are not raw. -/
inductive Built (h : HalfGlyphs) (cap : Nat) : List Slot → Prop
  | nil : Built h cap []
  | put {out : List Slot} {c : Byte} (hb : Built h cap out) (hroom : out.length < cap - 1)
      (hc : c ∈ [h.wL, h.wR, h.mL, h.mR] ∨ c ∉ rawCodes) : Built h cap (out ++ [{ ch := c, dp := false }])
  | mark {out : List Slot} (hb : Built h cap out) : Built h cap (markLast out)

section
variable {h : HalfGlyphs} {cap : Nat} {out : List Slot}

theorem Built.putSlot {o : List Slot} {c : Byte} (hb : Built h cap out) (hp : putSlot cap out c = some o)
    (hc : c ∈ [h.wL, h.wR, h.mL, h.mR] ∨ c ∉ rawCodes) : Built h cap o := by
  obtain ⟨hroom, rfl⟩ := putSlot_eq_some_iff.mp hp
  exact hb.put hroom hc

theorem Built.normStep (hb : Built h cap out) (x : Slot) : Built h cap (normStep h cap out x).1 := by
  unfold Machine.normStep
  extract_lets pair
  have hpair : ∀ l ∈ [h.wL, h.wR, h.mL, h.mR], ∀ r ∈ [h.wL, h.wR, h.mL, h.mR], Built h cap (pair l r).1 := by
    intro l hl r hr
    simp only [pair]
    split
    · exact hb
    · next o hput =>
      have ho : Built h cap o := hb.putSlot hput (.inl hl)
      split
      · exact ho
      · next hput' => exact ho.putSlot hput' (.inl hr)
  split_ifs with hW hM hQ hdp
  · exact hpair _ (by simp) _ (by simp)
  · exact hpair _ (by simp) _ (by simp)
  · exact hb.mark
  · exact hb.mark
  · split
    · exact hb
    · next hput => exact hb.putSlot hput (.inr (not_raw_iff.mpr ⟨hW, hM, hQ⟩))

theorem Built.normLoop (hb : Built h cap out) (l : List Slot) : Built h cap (normLoop h cap l out) := by
  induction l generalizing out with
  | nil => exact hb
  | cons x rest ih =>
    have hstep := hb.normStep x
    rw [Machine.normLoop]
    split
    · next heq =>
      rw [heq] at hstep
      exact ih hstep
    · next heq =>
      rw [heq] at hstep
      exact hstep

theorem Built.length_le (hb : Built h cap out) : out.length ≤ cap - 1 := by
  induction hb with
  | nil => exact Nat.zero_le _
  | put _ hroom _ _ => simpa using hroom
  | mark _ ih => simpa using ih

/-- No character of an output is raw (rule R242). -/
theorem Built.not_raw (hwf : halfWf h) (hb : Built h cap out) : ∀ c ∈ out.map (·.ch), c ∉ rawCodes := by
  induction hb with
  | nil => simp
  | @put out c _ _ hc ih =>
    have hraw : c ∉ rawCodes := hc.elim (fun hhalf => (hwf.2 c hhalf).2) id
    intro c' hc'
    rw [List.map_append, List.mem_append] at hc'
    obtain hold | hnew := hc'
    · exact ih c' hold
    · exact List.mem_singleton.mp hnew ▸ hraw
  | mark _ ih => rwa [markLast_map_ch]

end

theorem normalize_built (h : HalfGlyphs) (text : List Byte) (flags : List Bool) (cap : Nat) :
    Built h cap (normalize h text flags cap) :=
  Built.nil.normLoop _

/-- Settles O51: Put refuses to emit into the terminator's slot, and MarkLast emits nothing. -/
theorem normalizedTextFitsCapacity : Obligations.NormalizedTextFitsCapacity :=
  fun h text flags cap => (normalize_built h text flags cap).length_le

/-! ## The second pass: a text without raw characters (rules R235, R236) -/

theorem withFlags_map (l : List Slot) : withFlags (l.map (·.ch)) (l.map (·.dp)) = l := by
  induction l with
  | nil => rfl
  | cons x rest ih => rw [List.map_cons, List.map_cons, withFlags, ih]

/-- Without raw characters and flags, and with room for it, a text is copied. -/
theorem normLoop_of_unflagged (h : HalfGlyphs) {cap : Nat} {l out : List Slot} (hraw : ∀ x ∈ l, x.ch ∉ rawCodes)
    (hdp : ∀ x ∈ l, x.dp = false) (hroom : out.length + l.length ≤ cap - 1) : normLoop h cap l out = out ++ l := by
  induction l generalizing out with
  | nil => simp [normLoop]
  | cons x rest ih =>
    rw [List.forall_mem_cons] at hraw hdp
    rw [List.length_cons] at hroom
    rw [normLoop, normStep_of_unflagged hraw.1 hdp.1, if_pos (by omega)]
    simpa using ih (out := out ++ [x]) hraw.2 hdp.2 (by simp; omega)

/-- Without raw characters, a text emits at most its unflagged positions: a flagged one is dropped. -/
theorem length_normLoop_le (h : HalfGlyphs) (cap : Nat) {l : List Slot} (hraw : ∀ x ∈ l, x.ch ∉ rawCodes)
    (out : List Slot) : (normLoop h cap l out).length ≤ out.length + l.countP (!·.dp) := by
  induction l generalizing out with
  | nil => simp [normLoop]
  | cons x rest ih =>
    rw [List.forall_mem_cons] at hraw
    rw [normLoop]
    cases hdp : x.dp with
    | true =>
      rw [normStep_of_flagged hraw.1 hdp]
      simpa [List.countP_cons, hdp] using ih hraw.2 (markLast out)
    | false =>
      rw [normStep_of_unflagged hraw.1 hdp]
      by_cases hroom : out.length < cap - 1
      · rw [if_pos hroom]
        exact (ih hraw.2 (out ++ [x])).trans (by simp [hdp]; omega)
      · rw [if_neg hroom]
        exact Nat.le_add_right _ _

/-- A text without raw characters that fits is a fixed point exactly when no flag of it is set. -/
theorem normLoop_eq_self_iff (h : HalfGlyphs) {cap : Nat} {l : List Slot} (hraw : ∀ x ∈ l, x.ch ∉ rawCodes)
    (hroom : l.length ≤ cap - 1) : normLoop h cap l [] = l ↔ ∀ x ∈ l, x.dp = false := by
  constructor
  · intro hfix
    have hle : l.length ≤ l.countP (!·.dp) := by simpa [hfix] using length_normLoop_le h cap hraw []
    simpa using List.countP_eq_length.mp (Nat.le_antisymm List.countP_le_length hle)
  · intro hdp
    simpa using normLoop_of_unflagged h (out := []) hraw hdp (by simpa using hroom)

/-- Settles O52: a normalized text has no raw characters and fits, so only a flagged position could be dropped. -/
theorem normalizeIsFixedPointIffNoFlag : Obligations.NormalizeIsFixedPointIffNoFlag := by
  intro h text flags cap cap' hwf hcap out
  have hb : Built h cap out := normalize_built h text flags cap
  have hraw : ∀ x ∈ out, x.ch ∉ rawCodes := fun x hx => hb.not_raw hwf _ (List.mem_map_of_mem hx)
  rw [normalize, withFlags_map]
  exact normLoop_eq_self_iff h hraw (hb.length_le.trans (Nat.sub_le_sub_right hcap 1))

end Sys2Proof.Machine

/-! # Proofs of the family 60_exceptions: no instruction stops when the text is loaded -/

namespace Sys2Proof.Machine

/-- None of the actions is a refused read, so they run to their end (rule R260). -/
abbrev Unstopped (acts : List Action) : Prop := ∀ a ∈ acts, a.stops = none

theorem Unstopped.nil : Unstopped [] := List.forall_mem_nil _

theorem Unstopped.singleton {a : Action} (h : a.stops = none) : Unstopped [a] := List.forall_mem_singleton.mpr h

theorem Unstopped.append {as bs : List Action} (ha : Unstopped as) (hb : Unstopped bs) : Unstopped (as ++ bs) :=
  List.forall_mem_append.mpr ⟨ha, hb⟩

/-- A range check before a command's actions: an ignored command has no action to stop at (rules R95, R261). -/
theorem Unstopped.ite {acts : List Action} {c : Bool} (h : Unstopped acts) :
    Unstopped (if c then acts else ignoreActions) := by
  cases c with
  | true => exact h
  | false => exact .nil

theorem blankDigitsActions_unstopped (p : Params) (d : Nat) : Unstopped (blankDigitsActions p d) :=
  List.forall_mem_flatMap.mpr fun _ _ => writeDigitActions_stops _ _ _ _

/-- A refresh reads text slots only below `TLEN`, and those hold values (rule R304). -/
theorem refreshActions_unstopped {s : State} (h : s.TextLoaded) (d o : Nat) : Unstopped (refreshActions s d o) := by
  rw [refreshActions_eq s d o (State.windowLoaded_of_textLoaded h o)]
  exact digitActions_stops _ _ _

theorem actsRender_unstopped {s : State} (h : s.TextLoaded) (d : Nat) (dur : Duration) :
    Unstopped (actsRender d dur s) := by
  by_cases hd : d < s.par.devices
  · rw [actsRender_eq hd]
    exact (refreshActions_unstopped h d 0).append (.singleton rfl)
  · simp only [actsRender, devOk_iff, hd, if_false]
    exact .nil

/-- Of all commands only FRAME and RENDER read text; the others are transactions, responses and text writes. -/
theorem commandActions_unstopped {s : State} (h : s.TextLoaded) (i : Instr) : Unstopped (commandActions i s) := by
  cases i with
  | devcnt => exact .singleton rfl
  | shutdn _ _ | scanlim _ _ | intens _ _ => exact .ite (transmitActions_stops _ _ _ _)
  | clear d => exact .ite (blankDigitsActions_unstopped _ _)
  | setdigit _ _ _ _ | setchar _ _ _ _ => exact .ite (writeDigitActions_stops _ _ _ _)
  | init d =>
    have hcontrol : ∀ op data, Unstopped (transmitActions s.par d op data) := transmitActions_stops _ _
    exact .ite (((hcontrol _ _).append (hcontrol _ _)).append (blankDigitsActions_unstopped _ _))
  | rdshadow d pos =>
    simp only [commandActions, actsRdshadow]
    split <;> exact .singleton rfl
  | txtwr _ _ _ | txtlen _ => exact .ite (.singleton rfl)
  | frame d off => exact .ite (refreshActions_unstopped h d off)
  | render d dur => exact actsRender_unstopped h d dur
  | _ => exact .nil

theorem instrActions_unstopped {s : State} (h : s.TextLoaded) (i : Instr) : Unstopped (instrActions i s) := by
  intro a ha
  rcases mem_instrActions ha with hcommand | ⟨op, data, rfl⟩
  · exact commandActions_unstopped h i a hcommand
  · rfl

/-- Settles O49: an instruction stops only at a read of an unwritten slot, and a loaded text has none below `TLEN`. -/
theorem everyInstructionCompletes : Obligations.EveryInstructionCompletes := by
  intro i s h
  exact ⟨_, (exec_eq_run i s).trans (runActions_eq_foldl _ s (instrActions_unstopped h i))⟩

end Sys2Proof.Machine

/-! # Proofs of the family 70_reset_and_hazards: reset and its cuts, a device's power-up, a command's transactions -/

namespace Sys2Proof.Machine

/-! ## Reset (rules R36, R290) -/

theorem shadowAt_hardReset (s : State) (d i : Nat) : s.hardReset.shadowAt d i = 0x00 := by
  simp [State.shadowAt]

/-- Reset leaves the block at its reset values, whatever it was doing. -/
theorem blockAtReset_hardReset {s u : State} (hpar : u.par = s.par) : blockAtReset s u.hardReset := by
  have hlen : u.hardReset.shadow.length = 8 * s.par.devices := by simp [hpar]
  exact ⟨hpar, shadowAt_hardReset u, hlen, rfl, fun _ => rfl, rfl, rfl, rfl, rfl, rfl, rfl, rfl, rfl⟩

theorem step_reset {s : State} {rest : List HostMove} (h : s.host = .reset :: rest) :
    step s = .next { s with host := rest }.hardReset := by
  simp only [step, hostStep, h]

/-- Settles O39: the move is a reset of the block, which keeps the chain and puts the trace behind it. -/
theorem resetRestoresResetValues : Obligations.ResetRestoresResetValues := by
  intro s rest h
  obtain ⟨hpar, hshadow, hlen, htlen, htext, hseq, hready, hreq, hvalid, hdata, hclk, hlatch, htrace⟩ :=
    blockAtReset_hardReset (s := s) (u := { s with host := rest }) rfl
  exact ⟨_, step_reset h, hpar, hshadow, hlen, htlen, htext, hseq, hready, hreq, hvalid, hdata, hclk, hlatch, htrace,
    rfl, rfl, rfl, rfl, rfl⟩

/-! ## A reset inside a command (rule R293) -/

/-- The state after a reset that cuts the actions off after `n` of them. -/
abbrev State.cutOff (s : State) (n : Nat) (acts : List Action) : State := ((acts.take n).foldl State.act s).hardReset

/-- Whatever was cut off, the block is at its reset values, and what no action touches is as before. -/
theorem cutOff_kept (s : State) (n : Nat) (acts : List Action) :
    blockAtReset s (s.cutOff n acts) ∧ (s.cutOff n acts).powerUps = s.powerUps ∧
      (s.cutOff n acts).host = s.host := by
  obtain ⟨hpar, -, hhost, -, hups⟩ := foldl_act_frame (acts.take n) s
  exact ⟨blockAtReset_hardReset hpar, hups, hhost⟩

theorem scrollFrameActions_unstopped {s : State} (h : s.TextLoaded) (job : ScrollJob) :
    Unstopped (scrollFrameActions s job) := by
  refine (refreshActions_unstopped h _ _).append ?_
  split
  · exact .singleton rfl
  · exact .nil

theorem resumeActions_unstopped {s : State} (h : s.TextLoaded) (job : ScrollJob) : Unstopped (resumeActions job s) := by
  refine List.forall_mem_cons.mpr ⟨rfl, ?_⟩
  split
  · exact scrollFrameActions_unstopped h job
  · exact Unstopped.nil

/-- A step on a command with a reset inside it, the text being loaded. -/
theorem step_commandThenReset {s : State} {w : CommandWord} {n : Nat} {rest : List HostMove} (hload : s.TextLoaded)
    (hs : s.seq = .idle) (h : s.host = .commandThenReset w n :: rest) :
    step s = .next (State.cutOff { s with host := rest } n
      (commandActions (decodeCommand w) { s with host := rest })) := by
  have hready : s.ready = true := by simp [State.ready, hs]
  simp only [step, hostStep, h, hready, if_true]
  exact runThenReset_eq_foldl _ _ _ (commandActions_unstopped (s := { s with host := rest }) hload _)

/-- A step on an acknowledgement with a reset inside what it sets going. -/
theorem step_ackThenReset {s : State} {job : ScrollJob} {n : Nat} {rest : List HostMove} (hload : s.TextLoaded)
    (hs : s.seq = .waiting job) (h : s.host = .ackThenReset n :: rest) :
    step s = .next (State.cutOff { s with host := rest } n (resumeActions job { s with host := rest })) := by
  simp only [step, hostStep, h, acknowledgeThenReset, hs]
  exact runThenReset_eq_foldl _ _ _ (resumeActions_unstopped (s := { s with host := rest }) hload _)

/-- Without a wait to end, an acknowledgement sets nothing going for the reset to cut. -/
theorem step_ackThenReset_of_idle {s : State} {n : Nat} {rest : List HostMove} (hs : s.seq = .idle)
    (h : s.host = .ackThenReset n :: rest) : step s = .next { s with host := rest }.hardReset := by
  simp only [step, hostStep, h, acknowledgeThenReset, hs]

/-- Settles O40: the step runs the actions before the cut, and reset keeps what they did to the chain and the trace. -/
theorem resetInsideCommandAbandonsIt : Obligations.ResetInsideCommandAbandonsIt := by
  intro s n rest hload s1 abandoned
  have hcut : ∀ acts, abandoned acts (s1.cutOff n acts) := by
    intro acts
    obtain ⟨hreset, hups, hhost⟩ := cutOff_kept s1 n acts
    exact ⟨hreset, rfl, rfl, hups, rfl, hhost⟩
  refine ⟨fun w hs h => ?_, fun job hs h => ?_, fun hs h => ?_⟩
  · exact ⟨_, step_commandThenReset hload hs h, hcut _⟩
  · exact ⟨_, step_ackThenReset hload hs h, hcut _⟩
  · have hnone : s1.cutOff n [] = s1.hardReset := by rw [State.cutOff, List.take_nil]; rfl
    exact ⟨_, step_ackThenReset_of_idle hs h, hnone ▸ hcut []⟩

/-! ## A reset inside a transaction (rules R134, R293) -/

/-- `u` is `s` after part of a shift of `bits`: the clock edges of the first `edges` bits have come, the pulses of the
first `ended` have ended, and nothing was committed. -/
structure PartlyShifted (s u : State) (bits : List Bool) (edges ended : Nat) : Prop where
  dev    : u.dev = s.dev
  sr     : u.sr = (bits.take edges).foldl (shiftIn s.par.devices) s.sr
  events : u.outputTrace = s.outputTrace ++ (bits.take ended).map .bit

theorem PartlyShifted.none {s u : State} (bits : List Bool) (hdev : u.dev = s.dev) (hsr : u.sr = s.sr)
    (hevents : u.outputTrace = s.outputTrace) : PartlyShifted s u bits 0 0 :=
  ⟨hdev, by simpa using hsr, by simpa using hevents⟩

/-- A bit takes four actions: its clock edge is the second of them, and the fourth ends its pulse. -/
theorem foldl_take_pulse (bits : List Bool) (n : Nat) (s : State) :
    PartlyShifted s (((bits.flatMap pulseActions).take n).foldl State.act s) bits ((n + 2) / 4) (n / 4) := by
  induction bits generalizing n s with
  | nil => exact ⟨by simp, by simp, by simp⟩
  | cons b bits ih =>
    match n with
    | 0 | 1 => exact .none _ rfl rfl rfl
    | 2 | 3 => exact ⟨rfl, rfl, (List.append_nil _).symm⟩
    | n + 4 =>
      obtain ⟨hdev, hsr, hevents⟩ := ih n ((pulseActions b).foldl State.act s)
      have hsplit : ((b :: bits).flatMap pulseActions).take (n + 4) =
          pulseActions b ++ (bits.flatMap pulseActions).take n := rfl
      have hedges : (n + 4 + 2) / 4 = (n + 2) / 4 + 1 := by omega
      have hended : (n + 4) / 4 = n / 4 + 1 := by omega
      rw [hsplit, List.foldl_append, hedges, hended]
      refine ⟨hdev, hsr, ?_⟩
      rw [hevents, foldl_pulseActions]
      simp [State.outputTrace]

theorem shiftOutActions_length (n t : Nat) (f : WireFrame) :
    (shiftOutActions (frameVector n t f)).length = 64 * n := by
  have hpulse : ∀ b, (pulseActions b).length = 4 := fun _ => rfl
  simp only [shiftOutActions, List.length_flatMap, hpulse, List.map_const', List.sum_replicate, shiftOrder_length,
    frameVector_length, smul_eq_mul]
  omega

/-- The part of a transaction before its latch pulse begins, whatever follows the transaction. -/
theorem foldl_take_transmit {s : State} {q : Nat} {op data : Byte} {acts : List Action} {n : Nat}
    (hacts : transmitActions s.par q op data <+: acts) (hn : n ≤ 64 * s.par.devices) :
    PartlyShifted s ((acts.take n).foldl State.act s)
      (shiftOrder (frameVector s.par.devices q (mkFrame op data))) ((n + 2) / 4) (n / 4) := by
  obtain ⟨more, rfl⟩ := hacts
  have hlen : n ≤ (shiftOutActions (frameVector s.par.devices q (mkFrame op data))).length := by
    rwa [shiftOutActions_length]
  rw [transmitActions, List.append_assoc, List.take_append_of_le_length hlen]
  exact foldl_take_pulse _ n s

/-- A refresh of a loaded window begins with the digit write of slot 0. -/
theorem refreshActions_eq_cons {s : State} (d : Nat) {o : Nat} (h : s.windowLoaded o) :
    ∃ more, refreshActions s d o = .writeShadow d (windowPos s.par 0) (s.shownAt o 0) ::
      (transmitActions s.par d (digitOp s.par.ops (windowPos s.par 0)) (s.shownAt o 0) ++ more) :=
  ⟨_, refreshActions_eq s d o h⟩

/-- What an acknowledgement sets going, cut before the first latch pulse: two actions come before the first bit. -/
theorem foldl_take_resume {s : State} {job : ScrollJob} {n : Nat} (hk : job.k < job.frames)
    (hload : s.windowLoaded job.k) (hn : n ≤ 64 * s.par.devices + 2) :
    PartlyShifted s (((resumeActions job s).take n).foldl State.act s)
      (shiftOrder (frameVector s.par.devices job.d
        (mkFrame (digitOp s.par.ops (windowPos s.par 0)) (s.shownAt job.k 0)))) (n / 4) ((n - 2) / 4) := by
  obtain ⟨more, hfirst⟩ := refreshActions_eq_cons job.d hload
  rw [resumeActions, if_pos hk, scrollFrameActions, hfirst, List.cons_append, List.append_assoc]
  match n with
  | 0 | 1 => exact .none _ rfl rfl rfl
  | n + 2 =>
    obtain ⟨hdev, hsr, hevents⟩ := foldl_take_transmit
      (s := s.releaseWait.setShadow job.d (windowPos s.par 0) (s.shownAt job.k 0)) (List.prefix_append _ _)
      (Nat.le_of_add_le_add_right hn)
    exact ⟨hdev, hsr, hevents⟩

/-- Settles O41: a cut before the latch pulse leaves part of a shift, and reset keeps it and its events. -/
theorem resetInsideTransactionCommitsNothing : Obligations.ResetInsideTransactionCommitsNothing := by
  intro s n rest _ hload cut
  have hcut : ∀ {acts q op data edges ended}, PartlyShifted { s with host := rest }
        ((acts.take n).foldl State.act { s with host := rest })
        (shiftOrder (frameVector s.par.devices q (mkFrame op data))) edges ended →
      cut (State.cutOff { s with host := rest } n acts) q op data edges ended := by
    intro acts q op data edges ended hpart
    obtain ⟨hreset, hups, hhost⟩ := cutOff_kept { s with host := rest } n acts
    exact ⟨hreset, hpart.dev, hups, hhost, hpart.sr, hpart.events⟩
  refine ⟨fun q op data _ hn hhost => ?_, fun w d on hs h hw hd hn => ?_, fun job hs h hk hn => ?_⟩
  · subst hhost
    exact ⟨_, runThenReset_eq_foldl n _ s (transmitActions_stops _ _ _ _),
      hcut (foldl_take_transmit List.prefix_rfl hn)⟩
  · have hacts : commandActions (decodeCommand w) { s with host := rest } =
        transmitActions s.par d s.par.ops.shutdown (shutdownData s.par on) := by
      rw [hw]
      exact if_pos (devOk_iff.mpr hd)
    refine ⟨_, step_commandThenReset hload hs h, ?_⟩
    rw [hacts]
    exact hcut (foldl_take_transmit (s := { s with host := rest }) List.prefix_rfl hn)
  · exact ⟨_, step_ackThenReset hload hs h, hcut (foldl_take_resume (s := { s with host := rest }) hk
      (State.windowLoaded_of_textLoaded hload job.k) hn)⟩

/-! ## A device that powers up on its own (rule R299) -/

theorem step_devicePowerUp {s : State} {p : Nat} {rest : List HostMove} (hp : p < s.par.devices)
    (h : s.host = .devicePowerUp p :: rest) :
    step s = .next (State.devicePowerUp { s with host := rest } p) := by
  simp only [step, hostStep, h, hp, if_true]

/-- The frames of a register in which the sixteen bits of one device were replaced. -/
theorem frameAt_replace {sr : List Bool} {p : Nat} (f : WireFrame) (h : 16 * p + 16 ≤ sr.length) (q : Nat) :
    frameAt (sr.take (16 * p) ++ frameBits f ++ sr.drop (16 * p + 16)) q = if q = p then f else frameAt sr q := by
  have hlow : (sr.take (16 * p)).length = 16 * p := by simp; omega
  have hmid : (sr.take (16 * p) ++ frameBits f).length = 16 * p + 16 := by simp [hlow]
  apply BitVec.eq_of_getLsbD_eq
  intro i hi
  rw [frameAt_getLsbD _ _ _ hi, List.getD_eq_getElem?_getD]
  rcases Nat.lt_trichotomy q p with hq | rfl | hq
  · rw [if_neg (Nat.ne_of_lt hq), frameAt_getLsbD _ _ _ hi, List.append_assoc, List.getElem?_append_left (by omega),
      List.getElem?_take_of_lt (by omega), List.getD_eq_getElem?_getD]
  · rw [if_pos rfl, List.getElem?_append_left (by omega), List.getElem?_append_right (by omega), hlow,
      Nat.add_sub_cancel_left]
    simp [frameBits, hi]
  · rw [if_neg (Nat.ne_of_gt hq), frameAt_getLsbD _ _ _ hi, List.getElem?_append_right (by omega), hmid,
      List.getElem?_drop, List.getD_eq_getElem?_getD]
    congr 2
    omega

/-- Settles O33: the power-up writes the device's own registers and its own frame, and the step does nothing else. -/
theorem devicePowerUpBypassesBlock : Obligations.DevicePowerUpBypassesBlock := by
  intro s p rest hI hp h
  obtain ⟨-, -, -, ⟨hsr, -⟩, -⟩ := hI
  have hroom : 16 * p + 16 ≤ s.sr.length := by omega
  have hdev := State.devAt_devicePowerUp { s with host := rest } p
  refine ⟨_, step_devicePowerUp hp h, rfl, fun op => ?_, fun q op hq => ?_, fun q _ => frameAt_replace _ hroom q⟩
  · exact (hdev p op).trans (if_pos rfl)
  · exact (hdev q op).trans (if_neg hq)

/-! ## The agreement of shadow bank and device (rule R299) -/

/-- One value written to both registers of a digit makes them agree. -/
theorem agreesAt_of_eq {s t : State} {d i : Nat} {v : Byte} (hpar : t.par = s.par)
    (hdev : t.devAt d (digitOp s.par.ops i) = v) (hshadow : t.shadowAt d i = v) : t.agreesAt d i := by
  rw [State.agreesAt, hpar, hdev, hshadow]

theorem onlyDisplay.par {s t : State} (h : onlyDisplay s t) : t.par = s.par := by
  unfold onlyDisplay at h
  rw [h]

theorem Blanked.agreesAt {s t : State} {d i : Nat} (h : Blanked s t d) (hi : i < 8) : t.agreesAt d i :=
  agreesAt_of_eq h.frame.par (h.dev i hi) ((h.shadow d i hi).trans (if_pos rfl))

/-- The window map reaches every digit position: eight different positions below eight (rule R7). -/
theorem exists_windowPos_eq {p : Params} (h : paramsWf p) {i : Nat} (hi : i < 8) : ∃ j < 8, windowPos p j = i := by
  obtain ⟨-, -, -, -, -, -, hlen, hnodup, hlt⟩ := h
  have hsub : p.windowMap.Subperm (List.range 8) :=
    List.subperm_of_subset hnodup fun j hj => List.mem_range.mpr (hlt j hj)
  have hperm : p.windowMap.Perm (List.range 8) := hsub.perm_of_length_le (by simp [hlen])
  obtain ⟨j, hj, hji⟩ := List.mem_iff_getElem.mp (hperm.mem_iff.mpr (List.mem_range.mpr hi))
  refine ⟨j, hlen ▸ hj, ?_⟩
  rw [windowPos, List.getD_eq_getElem?_getD, List.getElem?_eq_getElem hj, Option.getD_some, hji]

theorem frameShown.agreesAt {s t : State} {d o i : Nat} (h : frameShown s t d o) (hpar : paramsWf s.par) (hi : i < 8) :
    t.agreesAt d i := by
  obtain ⟨hframe, hshadow, -, hdev, -⟩ := h
  obtain ⟨j, hj, rfl⟩ := exists_windowPos_eq hpar hi
  exact agreesAt_of_eq hframe.par (hdev j hj) (hshadow j hj)

/-- A refresh that stops at no read has read loaded slots only. -/
theorem windowLoaded_of_unstopped {s : State} {d o : Nat} (h : Unstopped (refreshActions s d o)) :
    s.windowLoaded o := by
  intro j hj hlt
  rw [Option.isSome_iff_ne_none]
  intro hnone
  have hmem : .readUnwritten (o + j) ∈ refreshActions s d o := by
    refine List.mem_flatMap.mpr ⟨j, List.mem_range.mpr hj, ?_⟩
    rw [slotActions_unwritten d hlt hnone]
    exact List.mem_singleton_self _
  exact absurd (h _ hmem) (Option.some_ne_none _)

/-- An instruction that completes has stopped at no read. -/
theorem unstopped_of_exec {i : Instr} {s t : State} (h : exec i s = .next t) : Unstopped (instrActions i s) := by
  rw [exec_eq_run] at h
  exact (runActions_next h).2

theorem eq_of_exec {i : Instr} {s t u : State} (ht : exec i s = .next t) (hu : exec i s = .next u) : t = u :=
  Host.Outcome.next.inj (ht.symm.trans hu)

theorem refreshActions_unstopped_of_frame {s : State} {d off : Nat} (hd : d < s.par.devices)
    (h : Unstopped (instrActions (.frame d off) s)) : Unstopped (refreshActions s d off) := by
  have hacts : instrActions (.frame d off) s = refreshActions s d off := if_pos (devOk_iff.mpr hd)
  rwa [hacts] at h

theorem refreshActions_unstopped_of_render {s : State} {d : Nat} {dur : Duration} (hd : d < s.par.devices)
    (h : Unstopped (instrActions (.render d dur) s)) : Unstopped (refreshActions s d 0) := by
  have hacts : instrActions (.render d dur) s = _ := actsRender_eq hd dur
  rw [hacts] at h
  exact fun a ha => h a (List.mem_append_left _ ha)

theorem frame_agreesAt {s t : State} {d off i : Nat} (hI : s.Inv) (hd : d < s.par.devices)
    (h : exec (.frame d off) s = .next t) (hi : i < 8) : t.agreesAt d i := by
  have hload := windowLoaded_of_unstopped (refreshActions_unstopped_of_frame hd (unstopped_of_exec h))
  obtain ⟨u, hexec, hu⟩ := frameShowsWindow s d off hI hd hload
  obtain rfl : t = u := eq_of_exec h hexec
  exact hu.agreesAt hI.1 hi

/-- The request of the wait after the frame touches neither register. -/
theorem render_agreesAt {s t : State} {d i : Nat} {dur : Duration} (hI : s.Inv) (hd : d < s.par.devices)
    (h : exec (.render d dur) s = .next t) (hi : i < 8) : t.agreesAt d i := by
  have hload := windowLoaded_of_unstopped (refreshActions_unstopped_of_render hd (unstopped_of_exec h))
  obtain ⟨u, hu, hexec⟩ := exec_render dur hI hd hload
  obtain rfl := eq_of_exec h hexec
  exact hu.agreesAt hI.1 hi

/-- A digit write puts one byte into both registers of its digit. -/
theorem writeDigit_agreesAt {i : Instr} {s t : State} {d pos : Nat} {pat : Byte} (hI : s.Inv) (hd : d < s.par.devices)
    (hp : pos ≤ 7) (h : exec i s = .next t) (hacts : instrActions i s = writeDigitActions s.par d pos pat) :
    t.agreesAt d pos := by
  obtain ⟨u, hrun, hu, hshadow⟩ := runActions_writeDigit hI hd hp pat
  obtain rfl : t = u := eq_of_exec h (exec_of_actions hacts hrun)
  have hdev : t.devAt d (digitOp s.par.ops pos) = pat := by
    rw [hu]
    exact (s.devAt_afterTransaction d _ pat d _).trans (if_pos ⟨rfl, rfl⟩)
  have hpar : t.par = s.par := by rw [hu]; rfl
  exact agreesAt_of_eq hpar hdev ((hshadow d pos (Nat.lt_succ_of_le hp)).trans (if_pos ⟨rfl, rfl⟩))

/-- Settles O34: a digit write puts one byte into both registers; a refresh or a blanking writes all eight digits. -/
theorem refreshRestoresAgreement : Obligations.RefreshRestoresAgreement := by
  intro s t d hI hd
  refine ⟨fun h i hi => ?_, fun pos hp h => ?_⟩
  · rcases h with h | h | ⟨off, h⟩ | ⟨dur, h⟩
    · obtain ⟨u, hexec, hu⟩ := exec_clear hI hd
      obtain rfl : t = u := eq_of_exec h hexec
      exact hu.agreesAt hi
    · obtain ⟨u, hexec, hu⟩ := exec_init hI hd
      obtain rfl : t = u := eq_of_exec h hexec
      exact hu.agreesAt hi
    · exact frame_agreesAt hI hd h hi
    · exact render_agreesAt hI hd h hi
  · rcases h with ⟨val, dp, hv, h⟩ | ⟨ch, dp, h⟩
    · exact writeDigit_agreesAt hI hd hp h (if_pos (by simp [hd, hp, hv]))
    · exact writeDigit_agreesAt hI hd hp h (if_pos (by simp [hd, hp]))

/-! ## The transactions a command makes (rule R303) -/

/-- The action emits a latch pulse. -/
def Action.isLatch : Action → Bool
  | .emit .latch => true
  | _ => false

/-- The number of latch pulses that actions emit. -/
def latches (acts : List Action) : Nat := acts.countP Action.isLatch

@[simp] theorem latches_append (as bs : List Action) : latches (as ++ bs) = latches as + latches bs :=
  List.countP_append

theorem latches_cons (a : Action) (as : List Action) : latches (a :: as) = latches as + if a.isLatch then 1 else 0 :=
  List.countP_cons

theorem latches_flatMap {α : Type} {f : α → List Action} {n : Nat} (h : ∀ x, latches (f x) = n) (l : List α) :
    latches (l.flatMap f) = l.length * n := by
  induction l with
  | nil => exact (Nat.zero_mul n).symm
  | cons x xs ih => rw [List.flatMap_cons, latches_append, h, ih, List.length_cons, Nat.succ_mul, Nat.add_comm]

theorem transactions_cons (e : Event) (es : List Event) :
    transactions (e :: es) = transactions es + if e = .latch then 1 else 0 := by
  simp [transactions, List.countP_cons]

/-- One action adds a transaction to the trace exactly if it emits a latch pulse. -/
theorem transactions_act (s : State) (a : Action) :
    transactions (s.act a).trace = transactions s.trace + if a.isLatch then 1 else 0 := by
  cases a with
  | emit e => cases e <;> exact transactions_cons _ _
  | respond v => exact transactions_cons _ _
  | request ms job => exact transactions_cons _ _
  | _ => rfl

theorem transactions_foldl_act (acts : List Action) (s : State) :
    transactions (acts.foldl State.act s).trace = transactions s.trace + latches acts := by
  induction acts generalizing s with
  | nil => rfl
  | cons a as ih => rw [List.foldl_cons, ih, transactions_act, latches_cons, Nat.add_assoc, Nat.add_comm (latches as)]

@[simp] theorem latches_transmitActions (p : Params) (t : Nat) (op data : Byte) :
    latches (transmitActions p t op data) = 1 := by
  have hshift : latches (shiftOutActions (frameVector p.devices t (mkFrame op data))) = 0 :=
    latches_flatMap (n := 0) (fun _ => rfl) _
  rw [transmitActions, latches_append, hshift]
  rfl

@[simp] theorem latches_writeDigitActions (p : Params) (d i : Nat) (pat : Byte) :
    latches (writeDigitActions p d i pat) = 1 :=
  latches_transmitActions _ _ _ _

@[simp] theorem latches_blankDigitsActions (p : Params) (d : Nat) : latches (blankDigitsActions p d) = 8 :=
  latches_flatMap (fun _ => latches_writeDigitActions _ _ _ _) _

/-- A refresh that stops at no read writes eight digits. -/
theorem latches_refreshActions {s : State} {d o : Nat} (h : Unstopped (refreshActions s d o)) :
    latches (refreshActions s d o) = 8 := by
  rw [refreshActions_eq s d o (windowLoaded_of_unstopped h)]
  exact latches_flatMap (fun _ => latches_writeDigitActions _ _ _ _) _

/-- The request of a wait is no transaction. -/
theorem latches_actsRender {s : State} {d : Nat} {dur : Duration} (hd : d < s.par.devices)
    (h : Unstopped (actsRender d dur s)) : latches (actsRender d dur s) = 8 := by
  rw [actsRender_eq hd, latches_append, latches_refreshActions (refreshActions_unstopped_of_render hd h)]
  rfl

/-- A range check before a command's actions: out of range there is no transaction (rules R95, R261). -/
theorem latches_ite {acts : List Action} {c : Bool} {q : Prop} [Decidable q] {n : Nat} (hc : c = true ↔ q)
    (h : q → latches acts = n) : latches (if c then acts else ignoreActions) = if q then n else 0 := by
  rw [if_congr hc rfl rfl]
  split
  · next hq => exact h hq
  · rfl

/-- Settles O50: an instruction adds as many transactions as its actions emit latch pulses. -/
theorem commandsMakeTheirTransactions : Obligations.CommandsMakeTheirTransactions := by
  intro s t i h
  have hrun := unstopped_of_exec h
  rw [exec_eq_run] at h
  rw [(runActions_next h).1, transactions_foldl_act]
  refine congrArg (transactions s.trace + ·) ?_
  cases i with
  | shutdn d on => exact latches_ite devOk_iff fun _ => latches_transmitActions _ _ _ _
  | scanlim d limit => exact latches_ite (by simp) fun _ => latches_transmitActions _ _ _ _
  | intens d level => exact latches_ite (by simp) fun _ => latches_transmitActions _ _ _ _
  | clear d => exact latches_ite devOk_iff fun _ => latches_blankDigitsActions _ _
  | setdigit d pos val dp => exact latches_ite (by simp [and_assoc]) fun _ => latches_writeDigitActions _ _ _ _
  | setchar d pos ch dp => exact latches_ite (by simp) fun _ => latches_writeDigitActions _ _ _ _
  | init d => exact latches_ite devOk_iff fun _ => by simp
  | rdshadow d pos =>
    simp only [instrActions, commandActions, actsRdshadow]
    split <;> rfl
  | txtwr idx ch dp => exact (latches_ite (n := 0) idxOk_iff fun _ => rfl).trans (ite_self 0)
  | txtlen len => exact (latches_ite (n := 0) lenOk_iff fun _ => rfl).trans (ite_self 0)
  | frame d off =>
    exact latches_ite devOk_iff fun hd => latches_refreshActions (refreshActions_unstopped_of_frame hd hrun)
  | render d dur =>
    show latches (actsRender d dur s) = if d < s.par.devices then 8 else 0
    split
    · next hd => exact latches_actsRender hd hrun
    · next hd => exact congrArg latches (if_neg fun hdev => hd (devOk_iff.mp hdev))
  | _ => rfl

end Sys2Proof.Machine
